-- ==== Sys2Proof/Word.lean ====
section
/-!
DEFINITION. The data types of the core: bytes, 32-bit words, and the fixed-length arrays the spec builds
from them (00_scope R11; 10_state R20; 20_memory R40). Every array has the length the spec fixes for it, so
no access of the core can be out of range (20_memory R47).
-/

namespace Sys2Proof

/-- A byte, an unsigned integer in 0..255 (00_scope R11). -/
abbrev Byte := BitVec 8

/-- A word (the spec's `u32`), an unsigned integer in 0..2^32-1; bit 0 is its least significant bit
(00_scope R11). -/
abbrev Word := BitVec 32

/-- A block of plaintext or ciphertext: exactly 8 bytes, byte 0 first (30_encoding R63). -/
abbrev Block := Vector Byte 8

/-- A key of the one accepted length, 16 bytes, byte 0 first (41_key_expansion R91). -/
abbrev Key := Vector Byte 16

/-- The KeyWords `L[0..3]` (10_state R25). -/
abbrev KeyWords := Vector Word 4

/-- A RoundKeySchedule `S[0..25]`, 26 words (10_state R22). The magic table `MT[0..25]` has the same shape
(10_state R21). -/
abbrev Schedule := Vector Word 26

end Sys2Proof
end

