-- ==== Sys2Proof/Config.lean ====
section
/-!
DEFINITION. What is fixed for the machine (00_scope R7), what the spec leaves to the implementation as an open
parameter (00_scope R8), and the free values behind the spec's "no value" (10_state R37).
-/

namespace Sys2Proof.Config

/-- `W`, the word size in bits (00_scope R7). -/
abbrev wordBits : Nat := 32

/-- `ROUNDS`, the number of rounds of one block transform (00_scope R7). -/
abbrev rounds : Nat := 12

/-- `KEY_SIZE`, the only accepted key length in bytes (00_scope R7; 10_state R29). -/
abbrev keySize : Nat := 16

/-- `BLOCK_SIZE`, the block length in bytes, exposed to callers (00_scope R7; 10_state R29). -/
abbrev blockSize : Nat := 8

/-- `T`, the schedule length in words, `2*(ROUNDS+1)`; the magic table has the same length (00_scope R7). -/
abbrev schedLen : Nat := 26

/-- `C`, the number of key words, `KEY_SIZE / 4` (00_scope R7). -/
abbrev keyWords : Nat := 4

/-- `N_ITER`, the iterations of the expansion loop, `3 * max(T, C)` (00_scope R7; 41_key_expansion R98). -/
abbrev nIter : Nat := 78

/-- `P`, element 0 of the magic table (00_scope R7, R9: the literal is normative). -/
def magicP : Word := 0xb7e15163#32

/-- `Q`, the magic table's increment (00_scope R7, R9: the literal is normative). -/
def magicQ : Word := 0x9e3779b9#32

/-- The least value the spec allows `KLEN_MAX` (00_scope R8, "OPEN, must be at least 32"). -/
abbrev klenMaxLeast : Nat := 32

/-- By how much `KLEN_MAX` exceeds 32: an open parameter of the implementation, left without a value
(00_scope R8; 92 D3; assumption log 6). -/
opaque klenMaxExcess : Nat

/-- `KLEN_MAX`, the largest key length the `KEXP` command can present (00_scope R8; 92 D3). -/
def klenMax : Nat := klenMaxExcess + klenMaxLeast

/-- Whether a key length can be presented: `klen` is in `0..KLEN_MAX` (30_encoding R62). The first
alternative is implied by the second (`Laws.klenAdmitted_iff`); it lets lengths up to 32 be decided although
`KLEN_MAX` is open. -/
def klenAdmitted (klen : Nat) : Bool :=
  decide (klen ≤ klenMaxLeast) || decide (klen ≤ klenMax)

/-- `N_KEXP_CYCLES`, the latency of `KEXP`: open, and no rule depends on it (00_scope R8; 70 R190; 92 D18). -/
opaque nKexpCycles : Nat

/-- `N_BLK_CYCLES`, the latency of one transform: open, and no rule depends on it (00_scope R8; 70 R190;
92 D18). -/
opaque nBlkCycles : Nat

/-- FREE VALUE. The words that stand where the spec says a word of `S` "holds no value" (10_state R34, R37):
the `n`-th one handed out. Nothing constrains it, so nothing can be proved of it (assumption log 1). -/
opaque noValueWord : Nat → Word

end Sys2Proof.Config
end

