-- ==== Sys2Proof/Syntax.lean ====
section
/-!
DEFINITION. The commands of the core, one constructor per row of spec/opcode_table.json (30_encoding R61).
-/

namespace Sys2Proof

/-- A command with its operands (30_encoding R61 to R63). The operand of a transform is a byte sequence, so
that a block of a wrong length can be represented and is faulted, never truncated or padded
(42_block_transform R131). -/
inductive Instr where
  /-- `KEXP`, op = 00, format K: load and expand a key. `klen` is the number of key bytes presented, hence
  the length of `key`; `key[0]` is the first byte (30_encoding R62; 41_key_expansion R103). -/
  | kexp (key : List Byte)
  /-- `ENC`, op = 01, format B: encrypt the block `src` (30_encoding R63; 42_block_transform R117). -/
  | enc (src : List Byte)
  /-- `DEC`, op = 10, format B: decrypt the block `src` (30_encoding R63; 42_block_transform R126). -/
  | dec (src : List Byte)
  /-- `RSVD`, op = 11, format X: the reserved command, without operands (30_encoding R67). -/
  | rsvd
  deriving DecidableEq, Repr

end Sys2Proof
end

