-- ==== Sys2Proof/WellFormed.lean ====
section
/-!
DEFINITION. Which commands the command interface can present (30_encoding R62, R63, R67).
-/

namespace Sys2Proof

/-- A block operand is exactly `BLOCK_SIZE` bytes (30_encoding R63). -/
def blockLengthOk (bytes : List Byte) : Bool := bytes.length == Config.blockSize

/-- The commands the interface can present: a key of at most `KLEN_MAX` bytes, a block of exactly 8 bytes, and
the reserved command, which has no operand. Every key of every admitted length and every 8-byte block is a
legal encoding (30_encoding R67). -/
def Instr.wellFormed : Instr → Bool
  | .kexp key => Config.klenAdmitted key.length
  | .enc src => blockLengthOk src
  | .dec src => blockLengthOk src
  | .rsvd => true

/-- `Instr.wellFormed` as a proposition. -/
abbrev Instr.WellFormed (i : Instr) : Prop := i.wellFormed = true

end Sys2Proof
end

