-- ==== Sys2Proof/Decode.lean ====
section
/-!
DEFINITION. The command as it stands at the interface (its fields, 30_encoding R61 to R63), the decoder, and
after it the encoder. The spec gives the selector 2 bits and gives the other fields no bit positions and
`klen` no width, so a command at the interface is the record of its fields (assumption log 3).
-/

namespace Sys2Proof

/-- A command at the command interface: the 2-bit selector, the `klen` field, and the operand bytes in order
(30_encoding R61 to R63; 95_test_vectors section 6, column "encoding"). Only format K has a `klen` field, and
format X has no operand; fields that a format does not have are not read (30_encoding R67, R68). -/
structure Frame where
  op : BitVec 2
  klen : Nat
  operand : List Byte
  deriving DecidableEq, Repr

/-- Why the interface turns a frame away: it is no command of any format. -/
inductive DecodeError where
  /-- Format K with a number of key bytes other than its `klen` field says (30_encoding R62: `key` is the
  sequence `key[0..klen-1]`). -/
  | keyBytes (klen presented : Nat)
  /-- Format K with `klen` above `KLEN_MAX`, which "cannot be presented" (30_encoding R67). -/
  | klenAboveMax (klen : Nat)
  /-- Format B with a number of bytes other than 8 (30_encoding R63). -/
  | blockBytes (presented : Nat)
  deriving DecidableEq, Repr

/-- The operand of format K: `klen` key bytes, `klen` in `0..KLEN_MAX` (30_encoding R62, R68). -/
def decodeKey (f : Frame) : Except DecodeError (List Byte) :=
  if f.operand.length = f.klen then
    if Config.klenAdmitted f.klen then .ok f.operand else .error (.klenAboveMax f.klen)
  else .error (.keyBytes f.klen f.operand.length)

/-- The operand of format B: exactly 8 bytes, never truncated and never padded (30_encoding R63, R68). -/
def decodeBlock (f : Frame) : Except DecodeError (List Byte) :=
  if blockLengthOk f.operand then .ok f.operand else .error (.blockBytes f.operand.length)

/-- The decoder: "reads `op`, then for `00` reads `klen` and then `klen` bytes, for `01` and `10` reads 8
bytes, for `11` reads nothing" (30_encoding R68). Total on every frame. -/
def decode (f : Frame) : Except DecodeError Instr :=
  if f.op = 0b00#2 then (decodeKey f).map Instr.kexp
  else if f.op = 0b01#2 then (decodeBlock f).map Instr.enc
  else if f.op = 0b10#2 then (decodeBlock f).map Instr.dec
  else .ok .rsvd

/-- The selector of a command (30_encoding R61). -/
def Instr.selector : Instr → BitVec 2
  | .kexp _ => 0b00#2
  | .enc _ => 0b01#2
  | .dec _ => 0b10#2
  | .rsvd => 0b11#2

/-- The encoder: the fields of a command (30_encoding R61 to R63). A field that the command's format does not
have is written 0 or empty. -/
def encode (i : Instr) : Frame :=
  match i with
  | .kexp key => ⟨i.selector, key.length, key⟩
  | .enc src => ⟨i.selector, 0, src⟩
  | .dec src => ⟨i.selector, 0, src⟩
  | .rsvd => ⟨i.selector, 0, []⟩

/-- The frame that spec/opcode_table.json's bits `w` (of `nbits` bits) stand for. The table numbers only the
selector, bits 1..0. Everything it gives no bits is 0: `klen` is 0, so no key byte follows, and the 8 bytes of
a block are zeros (assumption log 3). -/
def frameOfTableWord (nbits w : Nat) : Frame :=
  let op := BitVec.ofNat 2 (w % 2 ^ nbits)
  ⟨op, 0, if op = 0b01#2 ∨ op = 0b10#2 then List.replicate Config.blockSize 0#8 else []⟩

/-- The instruction the decoder reads from the table's bits `w`, if any. -/
def decodeTableWord (nbits w : Nat) : Option Instr := (decode (frameOfTableWord nbits w)).toOption

end Sys2Proof
end

