-- ==== Sys2Proof/Machine/State.lean ====
section
/-!
DEFINITION. The state of the core as plain data (10_state R20), the responses and host events it exchanges
(30_encoding R64; 70 R175, R176), the local registers of its functions, the reasons a step can stop, and
the state after reset (10_state R33 to R35).
-/

namespace Sys2Proof.Machine

/-- A response to a command (30_encoding R64, R65). A field that the spec leaves without a value in some
outcome (`elen` unless the status is 01, `dst` unless the status is 00) is not there in that outcome. -/
inductive Response where
  /-- Format RK, status 00 `OK`: a `KEXP` succeeded. -/
  | kexpOk
  /-- Format RK, status 01 `InvalidKeySize`, with `elen`, the offending length (60_exceptions R141). -/
  | invalidKeySize (elen : Nat)
  /-- Format RB, status 00 `OK`, with the result block. -/
  | blockOk (dst : Block)
  /-- Format RB, status 10 `NoSchedule`: no `dst` (60_exceptions R143). -/
  | noSchedule
  /-- Format RX, status 11 `IllegalCommand` (30_encoding R67). -/
  | illegalCommand
  deriving DecidableEq, Repr

/-- What the host does to the core, in the order it does it: it issues a command, or applies the reset event
between commands (70 R170, R175). -/
inductive HostEvent where
  | command (f : Frame)
  | reset
  deriving DecidableEq, Repr

/-- The three faults of the spec, contract violations that change no state (60_exceptions R143). -/
inductive Fault where
  /-- `NoSchedule`: `ENC` or `DEC` while `KV = 0`. Recorded in the command's response (status 10), after which
  the core takes the next command (60_exceptions R146, R147); no step stops with it. Safe: no block is ever
  given as its result. -/
  | noSchedule
  /-- `IllegalCommand`: the reserved selector. Recorded in the command's response (status 11), after which the
  core takes the next command; no step stops with it. Safe: no state changes. -/
  | illegalCommand
  /-- `BadBlockSize`: `ENC` or `DEC` with a block operand that is not 8 bytes long. It has no response code
  ("cannot occur at the decided interface"), so the step that meets it stops with it. Safe: the model stops and
  gives no value. -/
  | badBlockSize
  deriving DecidableEq, Repr

/-- Why a step has no meaning for what the host presents. -/
inductive Refusal where
  /-- An instruction the model gives no meaning yet: raised by an arm of `exec` alone. Safe: the model stops. No
  arm raises it any more. -/
  | notModelled (mnemonic : String)
  /-- Raised by `step` for a frame of format K whose number of key bytes is not its `klen`: no command of the
  interface (30_encoding R62). Safe: the model stops. -/
  | keyBytesMismatch (klen presented : Nat)
  /-- Raised by `step` for a frame of format K with `klen` above `KLEN_MAX`, which cannot be presented
  (30_encoding R67; 93, table "how the model treats each": refuse). Safe: the model stops. -/
  | klenAboveMax (klen : Nat)
  deriving DecidableEq, Repr

/-- What the transforms carry from line to line: the working words `A` and `B` (10_state R24). Local to one
command. -/
structure BlockWords where
  a : Word
  b : Word
  deriving DecidableEq, Repr

/-- What `KEXP` carries from iteration to iteration: the schedule being made, the key words, the two
accumulators and the two indices, each in its range (10_state R24 to R26). Local to one command. -/
structure KexpLocals where
  s : Schedule
  l : KeyWords
  a : Word
  b : Word
  i : Fin 26
  j : Fin 4
  deriving DecidableEq, Repr

/-- The state between two commands: `(S, KV)` (10_state R20, R31), the host's commands not yet taken and the
responses delivered (70 R176), and the count of free values handed out (the model's own). -/
structure State where
  /-- `S[0..25]`, the RoundKeySchedule (10_state R22). -/
  sched : Schedule
  /-- `KV`, the schedule-valid bit (10_state R23). -/
  kv : Bool
  /-- The host's commands and reset events that the core has not taken yet, oldest first (20_memory R51). -/
  pending : List HostEvent
  /-- The responses delivered, oldest first (30_encoding R64; 70 R176). -/
  responses : List Response
  /-- THE MODEL'S OWN: how many free values have been handed out (assumption log 1). -/
  draws : Nat
  deriving DecidableEq, Repr

/-- A schedule that "holds no value" (10_state R37): 26 free values, the ones numbered from `n` on. No
proof has a reason to unfold it: nothing is known of the values. -/
@[irreducible] def noValueSchedule (n : Nat) : Schedule := Vector.ofFn fun k => Config.noValueWord (n + k.val)

/-- The machine right after reset: `KV = 0` (10_state R33), `S` holds no value (10_state R34), nothing issued and
nothing answered (assumption log 4, 5). -/
def State.reset : State where
  sched := noValueSchedule 0
  kv := false
  pending := []
  responses := []
  draws := Config.schedLen

/-- One step's outcome. -/
abbrev Outcome := Host.Outcome State Fault Refusal

end Sys2Proof.Machine
end

