-- ==== Sys2Proof/Machine/Ops.lean ====
section
/-!
DEFINITION. The named operations: the word operations of the core, which are all it has (00_scope R12 to R17;
42_block_transform R132), the operations on the state, and the delivery of responses, of the error and of the
faults (60_exceptions R146).
-/

namespace Sys2Proof.Machine

/-- `add32(a, b) = (a + b) mod 2^32` (00_scope R12). -/
def add32 (a b : Word) : Word := a + b

/-- `sub32(a, b) = (a - b) mod 2^32` (00_scope R13). -/
def sub32 (a b : Word) : Word := a - b

/-- `a xor b`, bitwise exclusive-or (00_scope R14). PRESUMED by the spec itself (assumption log 9). -/
def xor32 (a b : Word) : Word := a ^^^ b

/-- `v mod 32 = v[4:0]`, the rotation amount taken from a word (00_scope R17; 30_encoding R71). -/
def rotAmount (v : Word) : Nat := v.toNat % 32

/-- `rotl32(x, n)`: the exact formula of 00_scope R15, in which an amount of 0 is the identity. -/
def rotl32 (x : Word) (n : Nat) : Word :=
  let s := n % 32
  if s = 0 then x
  else BitVec.ofNat 32 ((x.toNat * 2 ^ s) % 2 ^ 32 + x.toNat / 2 ^ (32 - s))

/-- `rotr32(x, n)`: the exact formula of 00_scope R16, in which an amount of 0 is the identity. -/
def rotr32 (x : Word) (n : Nat) : Word :=
  let s := n % 32
  if s = 0 then x
  else BitVec.ofNat 32 (x.toNat / 2 ^ s + (x.toNat * 2 ^ (32 - s)) % 2 ^ 32)

/-- The host's next event is taken: the rest stays pending (20_memory R51). -/
def State.takeEvent (s : State) (rest : List HostEvent) : State := { s with pending := rest }

/-- One more response is delivered, after all earlier ones (30_encoding R64; 20_memory R51). -/
def State.respond (r : Response) (s : State) : State := { s with responses := s.responses ++ [r] }

/-- All 26 words of `S` and `KV = 1` become visible together (20_memory R49; 41_key_expansion R103). -/
def State.install (sched : Schedule) (s : State) : State := { s with sched := sched, kv := true }

/-- `KV <- 0` and `S` holds no value (41_key_expansion R99; 70 R170): 26 fresh free values. -/
def State.invalidate (s : State) : State :=
  { s with sched := noValueSchedule s.draws, kv := false, draws := s.draws + Config.schedLen }

/-- `respond(...)`: the command ends with its one response (30_encoding R64). -/
def deliver (r : Response) (s : State) : Outcome := .next (s.respond r)

/-- `raise InvalidKeySize(n)`: the one error, recoverable; `KV <- 0`, `S` no value, and the offending length in
the response (60_exceptions R141, R146; 41_key_expansion R99). -/
def raiseInvalidKeySize (n : Nat) (s : State) : Outcome := deliver (.invalidKeySize n) s.invalidate

/-- `raise <fault>`: a fault is delivered as the response to the command that caused it, changes no state, and
the core goes on (60_exceptions R143, R146, R147). `BadBlockSize` has no response code, so the machine stops
with it (assumption log 2, 8). -/
def raiseFault (f : Fault) (s : State) : Outcome :=
  match f with
  | .noSchedule => deliver .noSchedule s
  | .illegalCommand => deliver .illegalCommand s
  | .badBlockSize => .fault .badBlockSize

end Sys2Proof.Machine
end

