-- ==== Sys2Proof/Machine/Operands.lean ====
section
/-!
DEFINITION. Operand assembly: bytes to words and back, always little-endian (20_memory R41 to R46;
30_encoding R66), and the length checks of the operands (41_key_expansion R91; 42_block_transform R131).
-/

namespace Sys2Proof.Machine

/-- `le32(b)`: four bytes to a word, least significant byte first (20_memory R41). -/
def le32 (b0 b1 b2 b3 : Byte) : Word :=
  BitVec.ofNat 32 (b0.toNat + 256 * b1.toNat + 65536 * b2.toNat + 16777216 * b3.toNat)

/-- Byte `k` of a word: `v[8k+7:8k]` (20_memory R42). -/
def byteOf (v : Word) (k : Nat) : Byte := v.extractLsb' (8 * k) 8

/-- `bytes_le32(v)`: a word to four bytes, least significant byte first (20_memory R42). -/
def bytesLe32 (v : Word) : Vector Byte 4 := #v[byteOf v 0, byteOf v 1, byteOf v 2, byteOf v 3]

/-- `MemRead(buf, k, 4) = le32(buf[k..k+3])` (20_memory R41). -/
def memRead {n : Nat} (buf : Vector Byte n) (k : Nat) (h : k + 3 < n) : Word :=
  le32 buf[k] buf[k + 1] buf[k + 2] buf[k + 3]

/-- `MemWrite(buf, k, 4, v)` writes `bytes_le32(v)` to `buf[k..k+3]` (20_memory R42). -/
def memWrite {n : Nat} (buf : Vector Byte n) (k : Nat) (h : k + 3 < n) (v : Word) : Vector Byte n :=
  (((buf.set k (bytesLe32 v)[0]).set (k + 1) (bytesLe32 v)[1]).set (k + 2) (bytesLe32 v)[2]).set (k + 3)
    (bytesLe32 v)[3]

/-- Key packing: `L[k] = le32(key[4k..4k+3])` (20_memory R44; 41_key_expansion R92). -/
def packKey (key : Key) : KeyWords :=
  Vector.ofFn fun k : Fin 4 => memRead key (4 * k.val) (by omega)

/-- Block packing on input: `A = le32(src[0..3])`, `B = le32(src[4..7])` (20_memory R45). -/
def loadBlock (src : Block) : BlockWords :=
  ⟨memRead src 0 (by decide), memRead src 4 (by decide)⟩

/-- Block packing on output, into a destination buffer: "Write `A` then `B`" (20_memory R45). -/
def storeBlock (dst : Block) (w : BlockWords) : Block :=
  memWrite (memWrite dst 0 (by decide) w.a) 4 (by decide) w.b

/-- The value a parallel bus carries for a buffer: byte `k` is bits `8k+7 : 8k` (20_memory R46). The spec's own
convention, used by no command. -/
def busValue (bytes : List Byte) : Nat :=
  match bytes with
  | [] => 0
  | b :: rest => b.toNat + 256 * busValue rest

/-- A byte sequence as a block, if it has exactly 8 bytes; never truncated, never padded
(42_block_transform R131). -/
def toBlock? (bytes : List Byte) : Option Block :=
  if h : bytes.length = 8 then some ⟨⟨bytes⟩, h⟩ else none

/-- A byte sequence as a key, if it has exactly 16 bytes; never truncated, never padded
(41_key_expansion R91, R99). -/
def toKey? (bytes : List Byte) : Option Key :=
  if h : bytes.length = 16 then some ⟨⟨bytes⟩, h⟩ else none

end Sys2Proof.Machine
end

