-- ==== Sys2Proof/Machine/BlockTransform.lean ====
section
/-!
DEFINITION. The block transform and the commands `ENC` and `DEC` (42_block_transform).
-/

namespace Sys2Proof.Machine

/-- One round of `encrypt`: rotate, then add the round key; the new `A` feeds `B`
(42_block_transform R112, R113). Round `r` uses `S[2r]` and `S[2r+1]` (30_encoding R72). -/
def encRound (sched : Schedule) (r : Nat) (h : r ≤ 12) (w : BlockWords) : BlockWords :=
  let a := add32 (rotl32 (xor32 w.a w.b) (rotAmount w.b)) sched[2 * r]
  let b := add32 (rotl32 (xor32 w.b a) (rotAmount a)) sched[2 * r + 1]
  ⟨a, b⟩

/-- Rounds 1, 2, ..., n of `encrypt` (42_block_transform R112). -/
def encRounds (sched : Schedule) : (n : Nat) → n ≤ 12 → BlockWords → BlockWords
  | 0, _, w => w
  | n + 1, h, w => encRound sched (n + 1) h (encRounds sched n (by omega) w)

/-- Step 1 of `encrypt`: load and whiten (42_block_transform R111). -/
def whiten (sched : Schedule) (w : BlockWords) : BlockWords := ⟨add32 w.a sched[0], add32 w.b sched[1]⟩

/-- `encrypt` on the working words: whiten, then the twelve rounds (42_block_transform R111, R112). -/
def encryptWords (sched : Schedule) (w : BlockWords) : BlockWords :=
  encRounds sched Config.rounds (by decide) (whiten sched w)

/-- One round of `decrypt`: subtract, rotate right, exclusive-or; `B` first, and the new `B` feeds `A`
(42_block_transform R122, R123). -/
def decRound (sched : Schedule) (r : Nat) (h : r ≤ 12) (w : BlockWords) : BlockWords :=
  let b := xor32 (rotr32 (sub32 w.b sched[2 * r + 1]) (rotAmount w.a)) w.a
  let a := xor32 (rotr32 (sub32 w.a sched[2 * r]) (rotAmount b)) b
  ⟨a, b⟩

/-- Rounds n, n-1, ..., 1 of `decrypt` (42_block_transform R122). -/
def decRounds (sched : Schedule) : (n : Nat) → n ≤ 12 → BlockWords → BlockWords
  | 0, _, w => w
  | n + 1, h, w => decRounds sched n (by omega) (decRound sched (n + 1) h w)

/-- Step 3 of `decrypt`: remove the whitening (42_block_transform R124). -/
def unwhiten (sched : Schedule) (w : BlockWords) : BlockWords := ⟨sub32 w.a sched[0], sub32 w.b sched[1]⟩

/-- `decrypt` on the working words: the twelve rounds in reverse, then remove the whitening
(42_block_transform R122, R124). -/
def decryptWords (sched : Schedule) (w : BlockWords) : BlockWords :=
  unwhiten sched (decRounds sched Config.rounds (by decide) w)

/-- `encrypt` into a destination buffer: all of `src` is read before any byte of the destination is written,
so the two may be the same storage (42_block_transform R111, R114, R116). -/
def encryptInto (sched : Schedule) (src dst : Block) : Block :=
  storeBlock dst (encryptWords sched (loadBlock src))

/-- `decrypt` into a destination buffer, in the same order (42_block_transform R121, R125, R116). -/
def decryptInto (sched : Schedule) (src dst : Block) : Block :=
  storeBlock dst (decryptWords sched (loadBlock src))

/-- The core's own result buffer before a transform writes it; all of its 8 bytes are written
(42_block_transform R114, R125). -/
def resultBuffer : Block := Vector.replicate 8 0#8

/-- `encrypt(S, src) -> dst` (42_block_transform R110). -/
def encrypt (sched : Schedule) (src : Block) : Block := encryptInto sched src resultBuffer

/-- `decrypt(S, src) -> dst` (42_block_transform R120). -/
def decrypt (sched : Schedule) (src : Block) : Block := decryptInto sched src resultBuffer

/-- A transform of byte sequences with a destination the caller supplies: any length other than 8, of the
source or of the destination, is the fault `BadBlockSize` (42_block_transform R131; 60_exceptions R143). -/
def transformInto (into : Schedule → Block → Block → Block) (sched : Schedule) (src dst : List Byte) :
    Except Fault Block :=
  match toBlock? src, toBlock? dst with
  | some b, some d => .ok (into sched b d)
  | _, _ => .error .badBlockSize

/-- What `ENC` and `DEC` share: the block's length is checked before the state is looked at (60_exceptions
R145), then `KV` (60_exceptions R143), then the transform runs on `S`
(42_block_transform R117, R126). -/
def execBlock (transform : Schedule → Block → Block) (src : List Byte) (s : State) : Outcome :=
  match toBlock? src with
  | none => raiseFault .badBlockSize s
  | some block =>
    if s.kv then deliver (.blockOk (transform s.sched block)) s else raiseFault .noSchedule s

/-- `ENC` (42_block_transform R117). -/
def execEnc (src : List Byte) (s : State) : Outcome := execBlock encrypt src s

/-- `DEC` (42_block_transform R126). -/
def execDec (src : List Byte) (s : State) : Outcome := execBlock decrypt src s

end Sys2Proof.Machine
end

