-- ==== Sys2Proof/Machine/MagicTable.lean ====
section
/-!
DEFINITION. The magic constant table, a constant of the machine and no state (10_state R21;
40_magic_table R80 to R84).
-/

namespace Sys2Proof.Machine

/-- The recurrence: element 0 is `P`, and each next element is `Q` more, modulo 2^32 (40_magic_table R80). -/
def magicWord : Nat → Word
  | 0 => Config.magicP
  | i + 1 => add32 (magicWord i) Config.magicQ

/-- `MT[0..25]` (40_magic_table R80). -/
def MT : Schedule := Vector.ofFn fun k : Fin 26 => magicWord k.val

end Sys2Proof.Machine
end

