-- ==== Sys2Proof/Machine/KeyExpansion.lean ====
section
/-!
DEFINITION. The key schedule expander and the command `KEXP` (41_key_expansion).
-/

namespace Sys2Proof.Machine

/-- Steps 1 to 3: pack the key, seed `S` with the magic table, clear `A`, `B`, `i`, `j`
(41_key_expansion R92 to R94). -/
def expandInit (key : Key) : KexpLocals where
  s := MT
  l := packKey key
  a := 0
  b := 0
  i := 0
  j := 0

/-- One iteration of step 4, its lines in the order written: the new `A` feeds `L[j]`, `B` is still the old one
there (41_key_expansion R95, R96; 70 R180). `i` and `j` advance modulo 26 and modulo 4 independently
(70 R187). -/
def mixIteration (m : KexpLocals) : KexpLocals :=
  let a := rotl32 (add32 (add32 m.s[m.i] m.a) m.b) 3
  let b := rotl32 (add32 (add32 m.l[m.j] a) m.b) (rotAmount (add32 a m.b))
  { s := m.s.set m.i a, l := m.l.set m.j b, a := a, b := b, i := m.i + 1, j := m.j + 1 }

/-- `t` iterations of step 4, one after another. -/
def mixIterations : Nat → KexpLocals → KexpLocals
  | 0, m => m
  | t + 1, m => mixIteration (mixIterations t m)

/-- The algorithm on a key of 16 bytes: 78 iterations, then `S` is the result and the rest is discarded
(41_key_expansion R92 to R98). Irreducible, so that no unification step runs the 78 iterations by accident. -/
@[irreducible] def expandKey (key : Key) : Schedule := (mixIterations Config.nIter (expandInit key)).s

/-- `expand(key) -> S | InvalidKeySize(n)`: any length but 16 fails with the offending length, and no byte of
the key is read then (41_key_expansion R90, R91). -/
def expand (key : List Byte) : Except Nat Schedule :=
  match toKey? key with
  | some k => .ok (expandKey k)
  | none => .error key.length

/-- `KEXP` (41_key_expansion R103): a failed one ends the previous instance (R99), a successful one replaces
the whole schedule whatever was there (R102). -/
def execKexp (key : List Byte) (s : State) : Outcome :=
  match expand key with
  | .ok sched => deliver .kexpOk (s.install sched)
  | .error n => raiseInvalidKeySize n s

end Sys2Proof.Machine
end

