-- ==== Sys2Proof/Machine/Reserved.lean ====
section
/-!
DEFINITION. The reserved command (30_encoding R67).
-/

namespace Sys2Proof.Machine

/-- `op = 11`: changes no state, reads no operand, and is answered `IllegalCommand` (30_encoding R67;
60_exceptions R143). -/
def execRsvd (s : State) : Outcome := raiseFault .illegalCommand s

end Sys2Proof.Machine
end

