-- ==== Sys2Proof/Machine/Dispatch.lean ====
section
/-! DEFINITION. The dispatch of a command to its meaning, one arm per constructor of `Instr`. -/

namespace Sys2Proof.Machine

def exec (i : Instr) (s : State) : Host.Outcome State Fault Refusal :=
  match i with
  | .kexp key => Sys2Proof.Machine.execKexp key s
  | .enc src => Sys2Proof.Machine.execEnc src s
  | .dec src => Sys2Proof.Machine.execDec src s
  | .rsvd => Sys2Proof.Machine.execRsvd s

end Sys2Proof.Machine
end

