-- ==== Sys2Proof/Machine/HostInterface.lean ====
section
/-!
DEFINITION. What the core does with the host's events other than a command that decodes: no event, the reset
event, and a frame that is no command (70 R170, R175; 30_encoding R62, R63, R67).
-/

namespace Sys2Proof.Machine

/-- No command is pending: "the core starts no activity of its own" (00_scope R10), so nothing changes. DEDUCED
(assumption log 4). -/
def idle (s : State) : Outcome := .next s

/-- The reset event: `KV <- 0` and `S` holds no value; it gets no response (70 R170, R171). What the host has
issued and what it has been answered are the host's, outside the core, and stay. -/
def applyReset (s : State) : Outcome := .next s.invalidate

/-- A frame that is no command of the interface: a block of a wrong length is the fault `BadBlockSize`
(60_exceptions R143), a key field that cannot be presented is refused (93, "`refuse` (cannot be issued)"). -/
def rejectFrame : DecodeError → Outcome
  | .keyBytes klen presented => .refused (.keyBytesMismatch klen presented)
  | .klenAboveMax klen => .refused (.klenAboveMax klen)
  | .blockBytes _ => .fault .badBlockSize

end Sys2Proof.Machine
end

