-- ==== Sys2Proof/Machine/Step.lean ====
section
/-!
DEFINITION. One step of the machine: the host's next event, which is one whole command or the reset event
(00_scope R19; 20_memory R51).
-/

namespace Sys2Proof.Machine

/-- Take the host's oldest event. A command that decodes is executed in the state its predecessor left
(20_memory R51). -/
def step (s : State) : Host.Outcome State Fault Refusal :=
  match s.pending with
  | [] => idle s
  | .reset :: rest => applyReset (s.takeEvent rest)
  | .command f :: rest =>
    match decode f with
    | .ok i => exec i (s.takeEvent rest)
    | .error e => rejectFrame e

/-- `s` with the command that the opcode table's bits `w` stand for as the host's next one, so that the very
next step runs it (assumption log 4). -/
def State.withFetchWord (s : State) (nbits w : Nat) : State :=
  { s with pending := .command (frameOfTableWord nbits w) :: s.pending }

end Sys2Proof.Machine
end

