-- ==== Sys2Proof/Machine/Flags.lean ====
section
/-!
DEFINITION. The core has no status flag and no condition code (10_state R28): the one bit of state, `KV`, is
written by `State.install` and `State.invalidate` alone. What stands in the place of flags is the status of a
response: its format, code and fields (30_encoding R64, R65).
-/

namespace Sys2Proof.Machine

/-- The response formats (30_encoding R64). -/
inductive ResponseFormat where
  | rk | rb | rx
  deriving DecidableEq, Repr

/-- The format of a response (30_encoding R64). -/
def Response.format : Response → ResponseFormat
  | .kexpOk => .rk
  | .invalidKeySize _ => .rk
  | .blockOk _ => .rb
  | .noSchedule => .rb
  | .illegalCommand => .rx

/-- `status[1:0]` (30_encoding R65). -/
def Response.status : Response → BitVec 2
  | .kexpOk => 0b00#2
  | .invalidKeySize _ => 0b01#2
  | .blockOk _ => 0b00#2
  | .noSchedule => 0b10#2
  | .illegalCommand => 0b11#2

/-- `elen`, where it is defined: the status is 01 (30_encoding R64). -/
def Response.elen? : Response → Option Nat
  | .invalidKeySize n => some n
  | _ => none

/-- `dst[0..7]`, where it is defined: a format RB response with status 00 (30_encoding R64). -/
def Response.dst? : Response → Option Block
  | .blockOk dst => some dst
  | _ => none

/-- The fault a response reports, if it reports one: `InvalidKeySize` is an error and no fault
(60_exceptions R140, R143; 92 D22). -/
def Response.fault? : Response → Option Fault
  | .noSchedule => some .noSchedule
  | .illegalCommand => some .illegalCommand
  | _ => none

/-- The format of the response a command gets (30_encoding R64). -/
def responseFormatOf : Instr → ResponseFormat
  | .kexp _ => .rk
  | .enc _ => .rb
  | .dec _ => .rb
  | .rsvd => .rx

end Sys2Proof.Machine
end

