-- ==== Sys2Proof/Safety.lean ====
section
/-!
DEFINITION. What counts as a good state and a safe run, in the terms the claims use.
-/

namespace Sys2Proof.Safety

open Sys2Proof.Machine

/-- The faults on record: those the responses report, oldest first (60_exceptions R143; 95_test_vectors,
Program 2: "a model that records faults"). -/
def faultsOnRecord (s : State) : List Fault := s.responses.filterMap Response.fault?

/-- The invariant of 10_state R23: `KV = 1` only while `S` holds the complete result of a successful `KEXP`,
that is, the expansion of some 16-byte key. -/
def ScheduleValid (s : State) : Prop := s.kv = true → ∃ key : Key, s.sched = expandKey key

/-- An event the host can present: the reset event, or a frame that is a command of the interface
(70 R175; 30_encoding R61 to R63). -/
def Presentable : HostEvent → Prop
  | .reset => True
  | .command f => ∃ i, decode f = .ok i

/-- Whether an event is a command, which gets a response, and not the reset event (30_encoding R64, R69). -/
def isCommand : HostEvent → Bool
  | .reset => false
  | .command _ => true

end Sys2Proof.Safety
end

