-- ==== Sys2Proof/Certificates/Slice0/Obligations.lean ====
section
/-!
DEFINITION. The statements for the provers. "D<n>" names a row of spec/92_eei_decisions.md: where a docstring says
that a clause is the spec's own decision, the source document does not force it.
-/

open Sys2Proof Sys2Proof.Machine Sys2Proof.Safety

/-! ## Words and bytes (00_scope section 5; 20_memory section 2) -/

/-- 00_scope section 5: addition and subtraction are modulo 2^32, without any trap (both functions are total). That
addition is associative and commutative is the spec's own inference, its sentence "`add32` is associative and
commutative, so `S[i] + A + B` has one value however it is grouped", which it marks as derived from the definition. -/
def Obligations.WordSumsAndDifferencesWrap : Prop :=
  (∀ a b : Word, (add32 a b).toNat = (a.toNat + b.toNat) % 2 ^ 32) ∧
  (∀ a b c : Word, add32 (add32 a b) c = add32 a (add32 b c)) ∧
  (∀ a b : Word, add32 a b = add32 b a) ∧
  (∀ a b : Word, (sub32 a b).toNat = (2 ^ 32 + a.toNat - b.toNat) % 2 ^ 32) ∧
  (∀ a b d : Word, add32 d b = a ↔ d = sub32 a b) ∧
  sub32 0x00000000#32 0x00000001#32 = 0xFFFFFFFF#32

/-- 00_scope section 5: bit `k` of the result is 1 exactly when the two bits differ. The bitwise reading is the
spec's own (93 G4; assumption log 9). -/
def Obligations.XorIsBitwise : Prop :=
  ∀ (a b : Word) (k : Nat), (xor32 a b).getLsbD k = true ↔ a.getLsbD k ≠ b.getLsbD k

/-- 00_scope section 5: bit `k` moves to bit `(k + s) mod 32` under a left rotation and to bit `(k - s) mod 32` under a
right rotation, so bit `(k + s) mod 32` moves to bit `k` there. That "left" is toward the more significant end is the
spec's own reading (93 G3; assumption log 9). -/
def Obligations.RotationsMoveBits : Prop :=
  ∀ (x : Word) (n k : Nat), k < 32 →
    (rotl32 x n).getLsbD ((k + n) % 32) = x.getLsbD k ∧
    (rotr32 x n).getLsbD k = x.getLsbD ((k + n) % 32)

/-- 00_scope section 5, 42_block_transform section 3: the right rotation undoes the left one and the left one the right
one, amounts count modulo 32, and an amount of 0 modulo 32 leaves the word as it is. -/
def Obligations.RotationsInvertAndReduce : Prop :=
  ∀ (x : Word) (n : Nat),
    rotr32 (rotl32 x n) n = x ∧ rotl32 (rotr32 x n) n = x ∧
    rotl32 x (n % 32) = rotl32 x n ∧ rotr32 x (n % 32) = rotr32 x n ∧
    (n % 32 = 0 → rotl32 x n = x ∧ rotr32 x n = x)

/-- 00_scope section 5: an amount taken from a word is its low 5 bits, in 0..31, and it is the same taken from the
wrapped sum or from the unbounded sum. -/
def Obligations.RotationAmountIsLowFiveBits : Prop :=
  (∀ v : Word, rotAmount v = (v.extractLsb' 0 5).toNat ∧ rotAmount v < 32) ∧
  (∀ a b : Word, rotAmount (add32 a b) = (a.toNat + b.toNat) % 32)

/-- R41, R42. The value of four bytes as a word, the bytes of a word in their order, and that the two conversions are
inverse; with the spec's example for each. -/
def Obligations.LittleEndianWords : Prop :=
  (∀ b0 b1 b2 b3 : Byte, (le32 b0 b1 b2 b3).toNat =
    b0.toNat + 256 * b1.toNat + 65536 * b2.toNat + 16777216 * b3.toNat) ∧
  (∀ (n : Nat) (buf : Vector Byte n) (k : Nat) (h : k + 3 < n),
    memRead buf k h = le32 buf[k] buf[k + 1] buf[k + 2] buf[k + 3]) ∧
  (∀ v : Word, bytesLe32 v =
    #v[v.extractLsb' 0 8, v.extractLsb' 8 8, v.extractLsb' 16 8, v.extractLsb' 24 8]) ∧
  (∀ b0 b1 b2 b3 : Byte, bytesLe32 (le32 b0 b1 b2 b3) = #v[b0, b1, b2, b3]) ∧
  (∀ v : Word, le32 (bytesLe32 v)[0] (bytesLe32 v)[1] (bytesLe32 v)[2] (bytesLe32 v)[3] = v) ∧
  (∀ (n : Nat) (buf : Vector Byte n) (k : Nat) (h : k + 3 < n) (v : Word) (d : Fin 4),
    (memWrite buf k h v)[k + d.val] = (bytesLe32 v)[d]) ∧
  le32 0x01#8 0x02#8 0x03#8 0x04#8 = 0x04030201#32 ∧
  bytesLe32 0xEEDBA521#32 = #v[0x21#8, 0xA5#8, 0xDB#8, 0xEE#8]

/-- 20_memory sections 2 and 4: a word written to a buffer is read back from the same offset, and every byte outside
the four written ones is as before. -/
def Obligations.BufferWriteReadsBackAndFrames : Prop :=
  ∀ (n : Nat) (buf : Vector Byte n) (k : Nat) (h : k + 3 < n) (v : Word),
    memRead (memWrite buf k h v) k h = v ∧
    ∀ (d : Nat) (hd : d < n), d < k ∨ k + 3 < d → (memWrite buf k h v)[d] = buf[d]

/-- R44, R45. The key words, the words of a block, and the bytes of a result block, with the spec's examples. -/
def Obligations.KeyAndBlockPacking : Prop :=
  (∀ (key : Key) (k : Fin 4), (packKey key)[k] =
    le32 key[4 * k.val] key[4 * k.val + 1] key[4 * k.val + 2] key[4 * k.val + 3]) ∧
  (∀ key : Key, (packKey key)[0].extractLsb' 0 8 = key[0] ∧ (packKey key)[3].extractLsb' 24 8 = key[15]) ∧
  (∀ src : Block, (loadBlock src).a = le32 src[0] src[1] src[2] src[3] ∧
    (loadBlock src).b = le32 src[4] src[5] src[6] src[7]) ∧
  (∀ (dst : Block) (w : BlockWords),
    (storeBlock dst w).toList = (bytesLe32 w.a).toList ++ (bytesLe32 w.b).toList) ∧
  (∀ (dst : Block) (w : BlockWords), loadBlock (storeBlock dst w) = w) ∧
  (∀ dst src : Block, storeBlock dst (loadBlock src) = src) ∧
  packKey #v[0x00#8, 0x01#8, 0x02#8, 0x03#8, 0x04#8, 0x05#8, 0x06#8, 0x07#8, 0x08#8, 0x09#8, 0x0A#8, 0x0B#8,
    0x0C#8, 0x0D#8, 0x0E#8, 0x0F#8] = #v[0x03020100#32, 0x07060504#32, 0x0B0A0908#32, 0x0F0E0D0C#32] ∧
  (∀ dst : Block, storeBlock dst ⟨0xEEDBA521#32, 0x6D8F4B15#32⟩ =
    #v[0x21#8, 0xA5#8, 0xDB#8, 0xEE#8, 0x15#8, 0x4B#8, 0x8F#8, 0x6D#8])

/-- 20_memory section 2, D5 (the spec's own lane mapping): byte `k` is bits `8k+7 : 8k`, the block bus carries
`A + 2^32 * B`, and the key bus the four key words in the same way. -/
def Obligations.BusLanesFollowByteOrder : Prop :=
  (∀ (bytes : List Byte) (k : Nat) (h : k < bytes.length),
    busValue bytes / 2 ^ (8 * k) % 2 ^ 8 = bytes[k].toNat) ∧
  (∀ src : Block, busValue src.toList = (loadBlock src).a.toNat + 2 ^ 32 * (loadBlock src).b.toNat) ∧
  (∀ key : Key, busValue key.toList = (packKey key)[0].toNat + 2 ^ 32 * (packKey key)[1].toNat +
    2 ^ 64 * (packKey key)[2].toNat + 2 ^ 96 * (packKey key)[3].toNat)

/-! ## The magic table (40_magic_table) -/

/-- 40_magic_table: the recurrence, the source's literal for element 1, and the closed form, which is the spec's own
inference, its sentence "Equivalently `MT[i] = (P + i*Q) mod 2^32`", which it marks as derived from the recurrence. -/
def Obligations.MagicTableRecurrence : Prop :=
  MT[0] = 0xb7e15163#32 ∧
  (∀ (i : Nat) (h : i < 25), MT[i + 1] = add32 MT[i] 0x9e3779b9#32) ∧
  (∀ (i : Nat) (h : i < 26), MT[i].toNat = (0xb7e15163 + i * 0x9e3779b9) % 2 ^ 32) ∧
  MT[1] = 0x5618cb1c#32

/-- 40_magic_table, the printed table, which the spec evaluated from the recurrence. -/
def Obligations.MagicTableValues : Prop :=
  MT.toList =
    [0xB7E15163#32, 0x5618CB1C#32, 0xF45044D5#32, 0x9287BE8E#32, 0x30BF3847#32, 0xCEF6B200#32, 0x6D2E2BB9#32] ++
    [0x0B65A572#32, 0xA99D1F2B#32, 0x47D498E4#32, 0xE60C129D#32, 0x84438C56#32, 0x227B060F#32, 0xC0B27FC8#32] ++
    [0x5EE9F981#32, 0xFD21733A#32, 0x9B58ECF3#32, 0x399066AC#32, 0xD7C7E065#32, 0x75FF5A1E#32, 0x1436D3D7#32] ++
    [0xB26E4D90#32, 0x50A5C749#32, 0xEEDD4102#32, 0x8D14BABB#32, 0x2B4C3474#32]

/-! ## The key schedule expander (41_key_expansion) -/

/-- R92, R93, R94, R95, R97. There are sequences of values of `S`, `L`, `A`, `B`, `i`, `j`, index `t` being the value
before iteration `t`, that start as steps 1 to 3 say, are related at each of the 78 iterations as the lines of step 4
say (each line sees the writes of the lines before it; nothing else changes), and whose last `S` is the schedule, where
`i = 0` and `j = 2`. -/
def Obligations.ExpansionFollowsTheAlgorithm : Prop :=
  ∀ key : Key, ∃ (S : Nat → Schedule) (L : Nat → KeyWords) (A B : Nat → Word) (i : Nat → Fin 26) (j : Nat → Fin 4),
    (∀ k : Fin 4, (L 0)[k] = memRead key (4 * k.val) (by omega)) ∧
    (∀ k : Fin 26, (S 0)[k] = MT[k]) ∧
    A 0 = 0 ∧ B 0 = 0 ∧ i 0 = 0 ∧ j 0 = 0 ∧
    (∀ t, t < 78 →
      (S (t + 1))[i t] = rotl32 (add32 (add32 (S t)[i t] (A t)) (B t)) 3 ∧
      A (t + 1) = (S (t + 1))[i t] ∧
      (L (t + 1))[j t] = rotl32 (add32 (add32 (L t)[j t] (A (t + 1))) (B t)) (rotAmount (add32 (A (t + 1)) (B t))) ∧
      B (t + 1) = (L (t + 1))[j t] ∧
      (i (t + 1)).val = ((i t).val + 1) % 26 ∧ (j (t + 1)).val = ((j t).val + 1) % 4 ∧
      (∀ k : Fin 26, k ≠ i t → (S (t + 1))[k] = (S t)[k]) ∧
      (∀ k : Fin 4, k ≠ j t → (L (t + 1))[k] = (L t)[k])) ∧
    (i 78 = 0 ∧ j 78 = 2) ∧
    expandKey key = S 78

/-- 41_key_expansion section 1 (consequences of the fixed counts, which the spec derives): word `k` of
`S` is rewritten at the three iterations `k`, `k + 26`, `k + 52` (with the new `A`) and at no other, word `k` of `L` at
no iteration that is not `k` modulo 4, and after the loop `A` is `S[25]`. The first clause is the spec's own sentence
"At iteration `t`, `i = t mod 26` and `j = t mod 4`", marked as derived there too. -/
def Obligations.EachScheduleWordIsRewrittenThreeTimes : Prop :=
  ∀ key : Key,
    (∀ t, t ≤ 78 → (mixIterations t (expandInit key)).i.val = t % 26 ∧ (mixIterations t (expandInit key)).j.val = t % 4) ∧
    (∀ (k : Fin 26) (t : Nat), t < 78 → t ≠ k.val → t ≠ k.val + 26 → t ≠ k.val + 52 →
      (mixIterations (t + 1) (expandInit key)).s[k] = (mixIterations t (expandInit key)).s[k]) ∧
    (∀ (k : Fin 26) (t : Nat), t = k.val ∨ t = k.val + 26 ∨ t = k.val + 52 →
      (mixIterations (t + 1) (expandInit key)).s[k] = (mixIterations (t + 1) (expandInit key)).a) ∧
    (∀ (k : Fin 4) (t : Nat), t < 78 → t % 4 ≠ k.val →
      (mixIterations (t + 1) (expandInit key)).l[k] = (mixIterations t (expandInit key)).l[k]) ∧
    (mixIterations 78 (expandInit key)).a = (expandKey key)[25]

/-- R91, R101. `expand` answers a schedule for exactly the keys of 16 bytes, every one of them, and for any other length
the error with that length. -/
def Obligations.ExpandChecksTheLengthOnly : Prop :=
  (∀ key : Key, expand key.toList = .ok (expandKey key)) ∧
  (∀ key : List Byte, key.length ≠ 16 → expand key = .error key.length)

/-- 41_key_expansion section 2; the updates of `KV`, the re-keying and the response are the spec's own decisions D6, D9,
D11. COMPLETION OF `KEXP`: with a 16-byte key, whatever its bytes and whatever the state (keyed before or not), it
answers the next state in which all of `S` is the key's expansion, `KV = 1`, and `OK` is the one new response. -/
def Obligations.KexpInstallsTheExpandedKey : Prop :=
  ∀ (key : Key) (s : State), ∃ t, exec (.kexp key.toList) s = .next t ∧
    t.sched = expandKey key ∧ t.kv = true ∧ t.responses = s.responses ++ [.kexpOk] ∧
    t.pending = s.pending ∧ t.draws = s.draws

/-- 41_key_expansion section 2, 60_exceptions section 1; the update of `KV` is the spec's own decision D8, and the free
values standing for "no value" are the model's (assumption log 1). A key of any other length, whatever its bytes, is
answered `InvalidKeySize` with that length, and no schedule is left, whatever the state was. The model's own counter
advances by the 26 free values handed out, so that the next ones are others. -/
def Obligations.FailedKexpInvalidatesTheSchedule : Prop :=
  ∀ (key : List Byte) (s : State), key.length ≠ 16 → ∃ t, exec (.kexp key) s = .next t ∧
    t.kv = false ∧ t.sched = noValueSchedule s.draws ∧ t.responses = s.responses ++ [.invalidKeySize key.length] ∧
    t.pending = s.pending ∧ t.draws = s.draws + 26

/-- 60_exceptions sections 1 and 4 (recovery; D8): the error depends on the length alone, and repeating the failed
command gives the same error, and a 16-byte key is then accepted. The first clause equates whole outcomes: that the
words of `S` left without a value are the same ones in both is THE MODEL'S CHOICE (assumption log 1: the free values are
numbered by `draws` alone), and the spec says nothing of them. -/
def Obligations.InvalidKeySizeIsRecoverable : Prop :=
  ∀ (bad other : List Byte) (s : State), bad.length ≠ 16 → other.length = bad.length →
    exec (.kexp other) s = exec (.kexp bad) s ∧
    ∃ t u, exec (.kexp bad) s = .next t ∧ exec (.kexp bad) t = .next u ∧ u.kv = false ∧
      u.responses = t.responses ++ [.invalidKeySize bad.length] ∧
      ∀ good : Key, ∃ v, exec (.kexp good.toList) t = .next v ∧ v.kv = true ∧ v.sched = expandKey good

/-! ## The block transform (42_block_transform) -/

/-- R111, R112, R113, R114. There are sequences `A`, `B`, index `r` being the value after round `r`, that start with the
whitened words of `src`, are related in each of the twelve rounds as the two lines say (the new `A` in the second), and
whose last values are the bytes of the result, whatever 26 words the schedule is. -/
def Obligations.EncryptFollowsTheAlgorithm : Prop :=
  ∀ (S : Schedule) (src : Block), ∃ A B : Nat → Word,
    A 0 = add32 (memRead src 0 (by decide)) S[0] ∧ B 0 = add32 (memRead src 4 (by decide)) S[1] ∧
    (∀ (r : Nat) (hr : r < 12),
      A (r + 1) = add32 (rotl32 (xor32 (A r) (B r)) (rotAmount (B r))) S[2 * (r + 1)] ∧
      B (r + 1) = add32 (rotl32 (xor32 (B r) (A (r + 1))) (rotAmount (A (r + 1)))) S[2 * (r + 1) + 1]) ∧
    (encrypt S src).toList = (bytesLe32 (A 12)).toList ++ (bytesLe32 (B 12)).toList

/-- R121, R122, R123, R124, R125. There are sequences `A`, `B`, index `r` being the value before round `r` is undone
and index 0 the value after the last, that start with the words of `src`, are related in rounds 12 down to 1 as the two
lines say (the new `B` in the second), and whose last values less the whitening words are the bytes of the result. -/
def Obligations.DecryptFollowsTheAlgorithm : Prop :=
  ∀ (S : Schedule) (src : Block), ∃ A B : Nat → Word,
    A 12 = memRead src 0 (by decide) ∧ B 12 = memRead src 4 (by decide) ∧
    (∀ (r : Nat) (hr : r < 12),
      B r = xor32 (rotr32 (sub32 (B (r + 1)) S[2 * (r + 1) + 1]) (rotAmount (A (r + 1)))) (A (r + 1)) ∧
      A r = xor32 (rotr32 (sub32 (A (r + 1)) S[2 * (r + 1)]) (rotAmount (B r))) (B r)) ∧
    (decrypt S src).toList = (bytesLe32 (sub32 (A 0) S[0])).toList ++ (bytesLe32 (sub32 (B 0) S[1])).toList

/-- R127. Round trip, in both forms of the source: for any 26 words, and for the expansion of any key. -/
def Obligations.DecryptInvertsEncrypt : Prop :=
  (∀ (S : Schedule) (block : Block), decrypt S (encrypt S block) = block) ∧
  (∀ key p, decrypt (expandKey key) (encrypt (expandKey key) p) = p)

/-- 42_block_transform section 2 (the other direction, which the spec derives): for a fixed schedule `encrypt` is a
bijection on blocks, with `decrypt` its inverse on both sides. -/
def Obligations.EncryptIsABijection : Prop :=
  ∀ S : Schedule, Function.Bijective (encrypt S) ∧ ∀ c : Block, encrypt S (decrypt S c) = c

/-- R116. The result does not depend on what the destination held, so the source's own storage may be the destination,
for both transforms. -/
def Obligations.InPlaceUseGivesTheSameBlock : Prop :=
  ∀ (S : Schedule) (src dst : Block),
    encryptInto S src dst = encrypt S src ∧ decryptInto S src dst = decrypt S src ∧
    encryptInto S src src = encrypt S src ∧ decryptInto S src src = decrypt S src

/-- 42_block_transform section 3, D4 (the spec's own decision): over byte sequences, a source or a supplied destination
of any length other than 8 is the fault `BadBlockSize`, and two of 8 bytes run. -/
def Obligations.TransformsOfByteSequencesCheckLengths : Prop :=
  (∀ (S : Schedule) (src dst : List Byte), src.length ≠ 8 ∨ dst.length ≠ 8 →
    transformInto encryptInto S src dst = .error .badBlockSize ∧
    transformInto decryptInto S src dst = .error .badBlockSize) ∧
  (∀ (S : Schedule) (src dst : Block),
    transformInto encryptInto S src.toList dst.toList = .ok (encrypt S src) ∧
    transformInto decryptInto S src.toList dst.toList = .ok (decrypt S src))

/-- 42_block_transform section 1; the bit `KV` is the spec's own decision D6. COMPLETION OF `ENC`: with `KV = 1` and
any 8 bytes, whatever the schedule, it answers the next state whose one new response is `OK` with `encrypt(S, src)`, and
nothing else changes. -/
def Obligations.EncAnswersTheCiphertext : Prop :=
  ∀ (src : Block) (s : State), s.kv = true → ∃ t, exec (.enc src.toList) s = .next t ∧
    t.responses = s.responses ++ [.blockOk (encrypt s.sched src)] ∧
    t.sched = s.sched ∧ t.kv = true ∧ t.pending = s.pending ∧ t.draws = s.draws

/-- 42_block_transform section 2; the bit `KV` is the spec's own decision D6. COMPLETION OF `DEC`: with `KV = 1` and
any 8 bytes, whether or not an `ENC` produced them, it answers the next state whose one new response is `OK` with
`decrypt(S, src)`, and nothing else changes. -/
def Obligations.DecAnswersThePlaintext : Prop :=
  ∀ (src : Block) (s : State), s.kv = true → ∃ t, exec (.dec src.toList) s = .next t ∧
    t.responses = s.responses ++ [.blockOk (decrypt s.sched src)] ∧
    t.sched = s.sched ∧ t.kv = true ∧ t.pending = s.pending ∧ t.draws = s.draws

/-- 60_exceptions section 1, D7 (the spec's own decision; delivered as a response, assumption log 2): with `KV = 0` a
transform of 8 bytes is answered `NoSchedule`, with no block, and nothing else changes. -/
def Obligations.TransformWithoutScheduleIsAnsweredNoSchedule : Prop :=
  ∀ (src : Block) (s : State), s.kv = false →
    (∃ t, exec (.enc src.toList) s = .next t ∧ t.responses = s.responses ++ [.noSchedule] ∧
      t.sched = s.sched ∧ t.kv = false ∧ t.pending = s.pending ∧ t.draws = s.draws) ∧
    (∃ t, exec (.dec src.toList) s = .next t ∧ t.responses = s.responses ++ [.noSchedule] ∧
      t.sched = s.sched ∧ t.kv = false ∧ t.pending = s.pending ∧ t.draws = s.draws) ∧
    Response.noSchedule.dst? = none

/-- 42_block_transform section 3, 60_exceptions sections 1 and 3, D4, D22 (the spec's own decisions): a block operand of
any length but 8 stops with `BadBlockSize`, whether `KV` is 0 or 1. -/
def Obligations.WrongBlockLengthStopsBeforeTheState : Prop :=
  ∀ (src : List Byte) (s : State), src.length ≠ 8 →
    exec (.enc src) s = .fault .badBlockSize ∧ exec (.dec src) s = .fault .badBlockSize

/-- 42_block_transform section 2, 95_test_vectors S-4; `KV` and re-keying are D6, D9: from any state, after `KEXP` of
any 16-byte key, the block that `ENC` answers for any `p` is one for which `DEC` answers `p`. -/
def Obligations.CommandsRoundTrip : Prop :=
  ∀ (s : State) (key : Key) (p : Block), ∃ t u v c,
    exec (.kexp key.toList) s = .next t ∧
    exec (.enc p.toList) t = .next u ∧ u.responses = t.responses ++ [.blockOk c] ∧
    exec (.dec c.toList) u = .next v ∧ v.responses = u.responses ++ [.blockOk p]

/-- 20_memory section 6 (transforms commute): two transforms of 8 bytes each give the same two responses in either
order, each response that of its own command, with or without a schedule, and nothing but the responses changes. -/
def Obligations.TransformsCommute : Prop :=
  ∀ (s : State) (b c : Block) (x y : Instr),
    x = .enc b.toList ∨ x = .dec b.toList → y = .enc c.toList ∨ y = .dec c.toList →
    ∃ rx ry, exec x s = .next (s.respond rx) ∧ exec y (s.respond rx) = .next ((s.respond rx).respond ry) ∧
      exec y s = .next (s.respond ry) ∧ exec x (s.respond ry) = .next ((s.respond ry).respond rx)

/-! ## The reserved command and the responses (30_encoding) -/

/-- 30_encoding section 4, D12 (the spec's own decision; delivered as a response, assumption log 2). COMPLETION OF THE
RESERVED COMMAND: in every state it answers the next state whose one new response is `IllegalCommand`, and nothing else
changes; and whatever stands in the frame's other fields, the selector 11 decodes to it. -/
def Obligations.ReservedCommandIsAnsweredIllegalCommand : Prop :=
  (∀ s : State, ∃ t, exec .rsvd s = .next t ∧ t.responses = s.responses ++ [.illegalCommand] ∧
    t.sched = s.sched ∧ t.kv = s.kv ∧ t.pending = s.pending ∧ t.draws = s.draws) ∧
  (∀ f : Frame, f.op = 0b11#2 → decode f = .ok .rsvd)

/-- 30_encoding section 2, D11 (the spec's own numbers): the status of each response, and that `elen` is defined exactly
with status 01, `dst` exactly in a format RB response with status 00, and a fault reported exactly with status 10 or
11. -/
def Obligations.ResponseFieldsFollowTheStatus : Prop :=
  Response.kexpOk.status = 0b00#2 ∧ (∀ n, (Response.invalidKeySize n).status = 0b01#2) ∧
  (∀ b, (Response.blockOk b).status = 0b00#2) ∧ Response.noSchedule.status = 0b10#2 ∧
  Response.illegalCommand.status = 0b11#2 ∧
  ∀ r : Response, (r.elen?.isSome ↔ r.status = 0b01#2) ∧
    (r.dst?.isSome ↔ r.format = .rb ∧ r.status = 0b00#2) ∧
    (r.fault?.isSome ↔ r.status = 0b10#2 ∨ r.status = 0b11#2)

/-! ## What the commands leave alone -/

/-- FRAME of every command, 20_memory section 4, 10_state sections 2 and 8: whenever a command answers a next state, it
has added one response, of its own format, after the earlier ones, and has left the host's events alone; `ENC`, `DEC`
and the reserved command have left `S`, `KV` and the model's own counter alone; and `KEXP` has changed the counter only
where it failed. -/
def Obligations.CommandFrames : Prop :=
  ∀ (i : Instr) (s t : State), exec i s = .next t →
    t.pending = s.pending ∧
    (∃ r, t.responses = s.responses ++ [r] ∧ r.format = responseFormatOf i) ∧
    ((∀ key, i ≠ .kexp key) → t.sched = s.sched ∧ t.kv = s.kv ∧ t.draws = s.draws) ∧
    (t.kv = true → t.draws = s.draws)

/-- 10_state section 8 (no hidden state): a command's response, and the next `KV` and, where it is 1, the next `S`, are a
function of the command and of `(S, KV)`: two states that agree on those two answer alike. -/
def Obligations.ResponseDependsOnScheduleAndValidBitOnly : Prop :=
  ∀ (i : Instr) (s₁ s₂ t₁ : State), s₁.sched = s₂.sched → s₁.kv = s₂.kv → exec i s₁ = .next t₁ →
    ∃ t₂ r, exec i s₂ = .next t₂ ∧ t₁.responses = s₁.responses ++ [r] ∧ t₂.responses = s₂.responses ++ [r] ∧
      t₁.kv = t₂.kv ∧ (t₁.kv = true → t₁.sched = t₂.sched)

/-- 42_block_transform section 3 (totality), 60_exceptions section 1: with a valid schedule no command of the interface
but the reserved one puts a fault on record. -/
def Obligations.NoFaultWithAValidSchedule : Prop :=
  ∀ (i : Instr) (s : State), s.kv = true → i.WellFormed → i ≠ .rsvd →
    ∃ t, exec i s = .next t ∧ faultsOnRecord t = faultsOnRecord s

/-! ## Encoding (30_encoding) -/

/-- 30_encoding section 2 (the selectors are the spec's own, D2, and the frame is the model's, assumption log 3): for
every command the interface can present, decoding its encoding gives it back, with every operand byte. -/
def Obligations.DecodeEncode : Prop := ∀ i : Instr, i.WellFormed → decode (encode i) = .ok i

/-- 30_encoding sections 2 and 4 (D2, D12; assumption log 3): whatever a frame decodes to is a command the interface can
present, has the frame's selector, and takes its operand bytes from the frame, all of them and in order; and a frame
with selector 00 is exactly the encoding of what it decodes to. -/
def Obligations.DecodeTakesEveryOperandByte : Prop :=
  ∀ (f : Frame) (i : Instr), decode f = .ok i →
    i.WellFormed ∧ i.selector = f.op ∧
    (f.op = 0b00#2 → encode i = f) ∧
    (f.op = 0b01#2 ∨ f.op = 0b10#2 → (encode i).operand = f.operand)

/-- 30_encoding section 2, D3 (the spec's own: `KLEN_MAX` is open and at least 32): every key length up to 32 can be
presented, and no length above `KLEN_MAX`. -/
def Obligations.KeyLengthsUpTo32CanBePresented : Prop :=
  32 ≤ Config.klenMax ∧
  (∀ key : List Byte, key.length ≤ 32 → decode (encode (.kexp key)) = .ok (.kexp key)) ∧
  (∀ key : List Byte, Config.klenMax < key.length →
    decode (encode (.kexp key)) = .error (.klenAboveMax key.length))

/-- 95_test_vectors section 6, column "encoding" (the selectors are the spec's own, D2): commands written out there
decode to what stands beside them. -/
def Obligations.PrintedEncodingsDecode : Prop :=
  decode ⟨0b01#2, 0, [0x00#8, 0x11#8, 0x22#8, 0x33#8, 0x44#8, 0x55#8, 0x66#8, 0x77#8]⟩ =
    .ok (.enc [0x00#8, 0x11#8, 0x22#8, 0x33#8, 0x44#8, 0x55#8, 0x66#8, 0x77#8]) ∧
  decode ⟨0b10#2, 0, [0x2D#8, 0xDC#8, 0x14#8, 0x9B#8, 0xCF#8, 0x08#8, 0x8B#8, 0x9E#8]⟩ =
    .ok (.dec [0x2D#8, 0xDC#8, 0x14#8, 0x9B#8, 0xCF#8, 0x08#8, 0x8B#8, 0x9E#8]) ∧
  decode ⟨0b00#2, 15, [0x00#8, 0x01#8, 0x02#8, 0x03#8, 0x04#8, 0x05#8, 0x06#8, 0x07#8, 0x08#8, 0x09#8, 0x0A#8, 0x0B#8,
    0x0C#8, 0x0D#8, 0x0E#8]⟩ = .ok (.kexp [0x00#8, 0x01#8, 0x02#8, 0x03#8, 0x04#8, 0x05#8, 0x06#8, 0x07#8, 0x08#8, 0x09#8,
    0x0A#8, 0x0B#8, 0x0C#8, 0x0D#8, 0x0E#8]) ∧
  decode ⟨0b11#2, 0, []⟩ = .ok .rsvd

/-! ## The machine -/

/-- 10_state section 9, D15 (the spec's own decision): after reset `KV = 0`; that nothing has been issued or answered
is the model's (assumption log 4, 5). That `ENC` and `DEC` of any block are then answered `NoSchedule` is 60_exceptions
section 1, D7 (the spec's own decision), and that the answer is a response after which the machine goes on is the model's
choice (assumption log 2). -/
def Obligations.ResetLeavesNoSchedule : Prop :=
  State.reset.kv = false ∧ State.reset.pending = [] ∧ State.reset.responses = [] ∧
  ∀ src : Block,
    (∃ t, exec (.enc src.toList) State.reset = .next t ∧ t.responses = [.noSchedule]) ∧
    (∃ t, exec (.dec src.toList) State.reset = .next t ∧ t.responses = [.noSchedule])

/-- 10_state section 2, D6: the schedule invariant holds after reset. -/
def Obligations.ResetScheduleValid : Prop := ScheduleValid State.reset

/-- 10_state section 2, D6 (the bit is the spec's own): every step keeps it that `KV = 1` only while `S` is the complete
expansion of some 16-byte key, in every state in which it holds, reachable or not. -/
def Obligations.StepKeepsScheduleValid : Prop :=
  ∀ s t : State, ScheduleValid s → step s = .next t → ScheduleValid t

/-- 10_state section 2 (D6, D9, D15): only `KEXP` and the reset event change `S` or `KV`. -/
def Obligations.OnlyKexpAndResetChangeTheSchedule : Prop :=
  ∀ s t : State, step s = .next t → (∀ rest, s.pending ≠ .reset :: rest) →
    (∀ f rest, s.pending = .command f :: rest → f.op ≠ 0b00#2) → t.sched = s.sched ∧ t.kv = s.kv

/-- 10_state section 2 (D6, D8, D15: "No other event changes it"): a step that sets `KV` ran a `KEXP` of a 16-byte key and
left that key's expansion in `S`; a step that clears it ran a `KEXP` of another length or was the reset event. -/
def Obligations.ValidBitChangesOnlyByKexpOrReset : Prop :=
  ∀ s t : State, step s = .next t →
    (s.kv = false → t.kv = true → ∃ (key : Key) (rest : List HostEvent),
      s.pending = .command (encode (.kexp key.toList)) :: rest ∧ t.sched = expandKey key) ∧
    (s.kv = true → t.kv = false → (∃ rest, s.pending = .reset :: rest) ∨
      ∃ f rest, s.pending = .command f :: rest ∧ f.op = 0b00#2 ∧ f.klen ≠ 16)

/-- 00_scope section 7, 20_memory section 6 (the frame and the list of the host's events are the model's, assumption log
3, 4): a step whose oldest event is a frame that decodes to a command is that command, in the state with the event
taken. -/
def Obligations.StepRunsTheDecodedCommand : Prop :=
  ∀ (s : State) (f : Frame) (rest : List HostEvent) (i : Instr),
    s.pending = .command f :: rest → decode f = .ok i → step s = exec i (s.takeEvent rest)

/-- 30_encoding section 2, 20_memory section 6 (D2, D13): every command of the interface, in every state, completes in
one step, takes its event, and gets exactly one response, of its format and after all earlier ones. -/
def Obligations.EveryCommandGetsOneResponse : Prop :=
  ∀ (s : State) (f : Frame) (rest : List HostEvent) (i : Instr), s.pending = .command f :: rest → decode f = .ok i →
    ∃ t r, step s = .next t ∧ t.pending = rest ∧ t.responses = s.responses ++ [r] ∧ r.format = responseFormatOf i

/-- 70_reset_and_hazards section 1, D15 (the spec's own decision; the free values are assumption log 1): the reset event
clears `KV`, leaves no value in `S`, and gets no response. The model's own counter advances by the 26 free values handed
out, so that the next ones are others. -/
def Obligations.ResetEventLeavesNoSchedule : Prop :=
  ∀ (s : State) (rest : List HostEvent), s.pending = .reset :: rest → ∃ t, step s = .next t ∧
    t.kv = false ∧ t.sched = noValueSchedule s.draws ∧ t.pending = rest ∧ t.responses = s.responses ∧
    t.draws = s.draws + 26

/-- 00_scope section 4 ("the core starts no activity of its own"; that a step then changes nothing is the model's,
assumption log 4): with nothing issued, a step changes nothing. -/
def Obligations.IdleStepChangesNothing : Prop := ∀ s : State, s.pending = [] → step s = .next s

/-- 30_encoding sections 2 and 4, 93 (the treatment of what cannot be issued is the spec's own, D3, D4; assumption log
3, 6, 8): a frame that is no command is turned away by name. -/
def Obligations.FramesOutsideTheInterfaceAreTurnedAway : Prop :=
  ∀ (s : State) (f : Frame) (rest : List HostEvent), s.pending = .command f :: rest →
    (f.op = 0b00#2 → f.operand.length ≠ f.klen →
      step s = .refused (.keyBytesMismatch f.klen f.operand.length)) ∧
    (f.op = 0b00#2 → f.operand.length = f.klen → Config.klenMax < f.klen →
      step s = .refused (.klenAboveMax f.klen)) ∧
    (f.op = 0b01#2 ∨ f.op = 0b10#2 → f.operand.length ≠ 8 → step s = .fault .badBlockSize)

/-- 70_reset_and_hazards section 3, D1 (end of a run): a run over events the host can present, from any state, ends after
as many steps as there are events, with none left, one response per command, and the earlier responses first. -/
def Obligations.EveryRunEnds : Prop :=
  ∀ s : State, (∀ e ∈ s.pending, Presentable e) → ∃ t added,
    core.run s.pending.length s = .next t ∧ t.pending = [] ∧ t.responses = s.responses ++ added ∧
    added.length = (s.pending.filter isCommand).length
end

