-- ==== Sys2Proof/Laws/Operands.lean ====
section
/-!
SUPPORT. What the length checks and the buffer accesses answer.
-/

namespace Sys2Proof

/-- The length check of the interface is the spec's `0..KLEN_MAX`: the first alternative is implied. -/
theorem Laws.klenAdmitted_iff (klen : Nat) : Config.klenAdmitted klen = true ↔ klen ≤ Config.klenMax := by
  have h : Config.klenMaxLeast ≤ Config.klenMax := Nat.le_add_left _ _
  simp only [Config.klenAdmitted, Bool.or_eq_true, decide_eq_true_eq]
  omega

end Sys2Proof

namespace Sys2Proof.Machine

theorem toBlock?_eq_none {bytes : List Byte} : toBlock? bytes = none ↔ bytes.length ≠ 8 := by
  simp [toBlock?]

/-- A block is found exactly when its bytes are the sequence. -/
theorem toBlock?_eq_some {bytes : List Byte} {b : Block} : toBlock? bytes = some b ↔ b.toList = bytes := by
  constructor
  · intro h
    simp only [toBlock?] at h
    split at h
    · cases h; rfl
    · cases h
  · rintro rfl
    simp [toBlock?, Vector.toList]

theorem toKey?_eq_none {bytes : List Byte} : toKey? bytes = none ↔ bytes.length ≠ 16 := by
  simp [toKey?]

/-- A key is found exactly when its bytes are the sequence. -/
theorem toKey?_eq_some {bytes : List Byte} {k : Key} : toKey? bytes = some k ↔ k.toList = bytes := by
  constructor
  · intro h
    simp only [toKey?] at h
    split at h
    · cases h; rfl
    · cases h
  · rintro rfl
    simp [toKey?, Vector.toList]

/-- Every byte of a destination buffer after both words are stored: nothing of the old buffer is left. -/
theorem storeBlock_eq (dst : Block) (w : BlockWords) :
    storeBlock dst w = #v[byteOf w.a 0, byteOf w.a 1, byteOf w.a 2, byteOf w.a 3,
      byteOf w.b 0, byteOf w.b 1, byteOf w.b 2, byteOf w.b 3] := by
  ext i hi
  have : i = 0 ∨ i = 1 ∨ i = 2 ∨ i = 3 ∨ i = 4 ∨ i = 5 ∨ i = 6 ∨ i = 7 := by omega
  rcases this with rfl | rfl | rfl | rfl | rfl | rfl | rfl | rfl <;>
    simp [storeBlock, memWrite, bytesLe32]

end Sys2Proof.Machine
end

