-- ==== Sys2Proof/Laws/State.lean ====
section
/-!
SUPPORT. The fields of the state after each named update, so that no later proof unfolds a record update, and
what the delivery operations answer.
-/

namespace Sys2Proof.Machine

@[simp] theorem State.takeEvent_sched (s : State) (rest : List HostEvent) :
    (s.takeEvent rest).sched = s.sched := rfl
@[simp] theorem State.takeEvent_kv (s : State) (rest : List HostEvent) : (s.takeEvent rest).kv = s.kv := rfl
@[simp] theorem State.takeEvent_pending (s : State) (rest : List HostEvent) :
    (s.takeEvent rest).pending = rest := rfl
@[simp] theorem State.takeEvent_responses (s : State) (rest : List HostEvent) :
    (s.takeEvent rest).responses = s.responses := rfl
@[simp] theorem State.takeEvent_draws (s : State) (rest : List HostEvent) :
    (s.takeEvent rest).draws = s.draws := rfl

@[simp] theorem State.respond_sched (r : Response) (s : State) : (s.respond r).sched = s.sched := rfl
@[simp] theorem State.respond_kv (r : Response) (s : State) : (s.respond r).kv = s.kv := rfl
@[simp] theorem State.respond_pending (r : Response) (s : State) : (s.respond r).pending = s.pending := rfl
@[simp] theorem State.respond_responses (r : Response) (s : State) :
    (s.respond r).responses = s.responses ++ [r] := rfl
@[simp] theorem State.respond_draws (r : Response) (s : State) : (s.respond r).draws = s.draws := rfl

@[simp] theorem State.install_sched (sched : Schedule) (s : State) : (s.install sched).sched = sched := rfl
@[simp] theorem State.install_kv (sched : Schedule) (s : State) : (s.install sched).kv = true := rfl
@[simp] theorem State.install_pending (sched : Schedule) (s : State) :
    (s.install sched).pending = s.pending := rfl
@[simp] theorem State.install_responses (sched : Schedule) (s : State) :
    (s.install sched).responses = s.responses := rfl
@[simp] theorem State.install_draws (sched : Schedule) (s : State) : (s.install sched).draws = s.draws := rfl

@[simp] theorem State.invalidate_sched (s : State) : s.invalidate.sched = noValueSchedule s.draws := rfl
@[simp] theorem State.invalidate_kv (s : State) : s.invalidate.kv = false := rfl
@[simp] theorem State.invalidate_pending (s : State) : s.invalidate.pending = s.pending := rfl
@[simp] theorem State.invalidate_responses (s : State) : s.invalidate.responses = s.responses := rfl
@[simp] theorem State.invalidate_draws (s : State) : s.invalidate.draws = s.draws + 26 := rfl

/-- `deliver` always answers a next state: the one with the response added. -/
theorem deliver_next {r : Response} {s t : State} : deliver r s = .next t ↔ t = s.respond r := by
  simp only [deliver, Host.Outcome.next.injEq]; exact eq_comm

/-- The error always answers a next state: no schedule, and the offending length in the response. -/
theorem raiseInvalidKeySize_next {n : Nat} {s t : State} :
    raiseInvalidKeySize n s = .next t ↔ t = s.invalidate.respond (.invalidKeySize n) :=
  deliver_next

/-- Everything a fault can do: the two that have a response code are delivered and change nothing else, and
`BadBlockSize` stops the machine. -/
theorem raiseFault_cases (f : Fault) (s : State) :
    (f = .noSchedule ∧ raiseFault f s = .next (s.respond .noSchedule)) ∨
    (f = .illegalCommand ∧ raiseFault f s = .next (s.respond .illegalCommand)) ∨
    (f = .badBlockSize ∧ raiseFault f s = .fault .badBlockSize) := by
  cases f
  · exact .inl ⟨rfl, rfl⟩
  · exact .inr (.inl ⟨rfl, rfl⟩)
  · exact .inr (.inr ⟨rfl, rfl⟩)

end Sys2Proof.Machine
end

