-- ==== Sys2Proof/Laws/Meanings.lean ====
section
/-!
SUPPORT. One lemma per meaning that says everything it can do, and the inversion of `step`.
-/

namespace Sys2Proof.Machine

/-- The schedule of a key is what `S` holds after 78 iterations. The one place where `expandKey` is unfolded. -/
theorem expandKey_eq (key : Key) : expandKey key = (mixIterations 78 (expandInit key)).s := by
  unfold expandKey
  rfl

/-- Everything `KEXP` can do: a key of 16 bytes is expanded and installed, any other length is the error. -/
theorem execKexp_cases (key : List Byte) (s : State) :
    (∃ k : Key, k.toList = key ∧ execKexp key s = .next ((s.install (expandKey k)).respond .kexpOk)) ∨
    (key.length ≠ 16 ∧ execKexp key s = .next (s.invalidate.respond (.invalidKeySize key.length))) := by
  cases h : toKey? key with
  | some k => exact .inl ⟨k, toKey?_eq_some.1 h, by simp [execKexp, expand, h, deliver]⟩
  | none =>
    exact .inr ⟨toKey?_eq_none.1 h, by simp [execKexp, expand, h, raiseInvalidKeySize, deliver]⟩

/-- Everything a transform command can do: a wrong length stops, no schedule is answered so, and otherwise the
transform's block is delivered; no case writes `S`, `KV` or the host's events. -/
theorem execBlock_cases (f : Schedule → Block → Block) (src : List Byte) (s : State) :
    (src.length ≠ 8 ∧ execBlock f src s = .fault .badBlockSize) ∨
    (∃ b : Block, b.toList = src ∧ s.kv = false ∧ execBlock f src s = .next (s.respond .noSchedule)) ∨
    (∃ b : Block, b.toList = src ∧ s.kv = true ∧
      execBlock f src s = .next (s.respond (.blockOk (f s.sched b)))) := by
  cases h : toBlock? src with
  | none => exact .inl ⟨toBlock?_eq_none.1 h, by simp [execBlock, h, raiseFault]⟩
  | some b =>
    cases hk : s.kv with
    | false =>
      exact .inr (.inl ⟨b, toBlock?_eq_some.1 h, rfl, by simp [execBlock, h, hk, raiseFault, deliver]⟩)
    | true => exact .inr (.inr ⟨b, toBlock?_eq_some.1 h, rfl, by simp [execBlock, h, hk, deliver]⟩)

/-- Everything a step can do when it answers a next state. -/
theorem step_cases {s t : State} (h : step s = .next t) :
    (s.pending = [] ∧ t = s) ∨
    (∃ rest, s.pending = .reset :: rest ∧ t = (s.takeEvent rest).invalidate) ∨
    (∃ f rest i, s.pending = .command f :: rest ∧ decode f = .ok i ∧
      exec i (s.takeEvent rest) = .next t) := by
  unfold step at h
  split at h
  · rename_i hp
    exact .inl ⟨hp, by simpa [idle, eq_comm] using h⟩
  · rename_i rest hp
    exact .inr (.inl ⟨rest, hp, by simpa [applyReset, eq_comm] using h⟩)
  · rename_i f rest hp
    split at h
    · rename_i i hd
      exact .inr (.inr ⟨f, rest, i, hp, hd, h⟩)
    · rename_i e hd
      cases e <;> simp [rejectFrame] at h

end Sys2Proof.Machine
end

