-- ==== Sys2Proof/Laws/PerInstr.lean ====
section
/-!
SUPPORT. Statements made for each instruction by its own lemma.
-/

namespace Sys2Proof.Laws.DecodedAs

/-- Whatever frame the decoder reads as this command carries this command's selector, and the command is one
the interface can present (30_encoding R61, R68). -/
def Statement (i : Instr) : Prop := ∀ f : Frame, decode f = .ok i → f.op = i.selector ∧ i.WellFormed

theorem selector_cases (op : BitVec 2) : op = 0b00#2 ∨ op = 0b01#2 ∨ op = 0b10#2 ∨ op = 0b11#2 := by
  revert op; decide

theorem decodeKey_ok {f : Frame} {key : List Byte} (h : decodeKey f = .ok key) :
    key = f.operand ∧ f.operand.length = f.klen ∧ Config.klenAdmitted f.klen = true := by
  unfold decodeKey at h
  split at h
  · split at h
    · exact ⟨(Except.ok.inj h).symm, ‹_›, ‹_›⟩
    · cases h
  · cases h

theorem decodeBlock_ok {f : Frame} {src : List Byte} (h : decodeBlock f = .ok src) :
    src = f.operand ∧ blockLengthOk f.operand = true := by
  unfold decodeBlock at h
  split at h
  · exact ⟨(Except.ok.inj h).symm, ‹_›⟩
  · cases h

/-- Everything a successful decoding can be. -/
theorem decode_cases {f : Frame} {i : Instr} (h : decode f = .ok i) :
    (f.op = 0b00#2 ∧ i = .kexp f.operand ∧ f.operand.length = f.klen ∧
      Config.klenAdmitted f.klen = true) ∨
    (f.op = 0b01#2 ∧ i = .enc f.operand ∧ blockLengthOk f.operand = true) ∨
    (f.op = 0b10#2 ∧ i = .dec f.operand ∧ blockLengthOk f.operand = true) ∨
    (f.op = 0b11#2 ∧ i = .rsvd) := by
  rcases selector_cases f.op with hop | hop | hop | hop
  · cases hk : decodeKey f with
    | error e => simp [decode, hop, hk, Except.map] at h
    | ok key =>
      obtain ⟨rfl, hl, ha⟩ := decodeKey_ok hk
      exact .inl ⟨hop, by simpa [decode, hop, hk, Except.map, eq_comm] using h, hl, ha⟩
  · cases hb : decodeBlock f with
    | error e => simp [decode, hop, hb, Except.map] at h
    | ok src =>
      obtain ⟨rfl, hl⟩ := decodeBlock_ok hb
      exact .inr (.inl ⟨hop, by simpa [decode, hop, hb, Except.map, eq_comm] using h, hl⟩)
  · cases hb : decodeBlock f with
    | error e => simp [decode, hop, hb, Except.map] at h
    | ok src =>
      obtain ⟨rfl, hl⟩ := decodeBlock_ok hb
      exact .inr (.inr (.inl ⟨hop, by simpa [decode, hop, hb, Except.map, eq_comm] using h, hl⟩))
  · exact .inr (.inr (.inr ⟨hop, by simpa [decode, hop, eq_comm] using h⟩))

theorem kexp (key : List Byte) : Statement (.kexp key) := by
  intro f h
  rcases decode_cases h with ⟨hop, hi, hl, ha⟩ | ⟨_, hi, _⟩ | ⟨_, hi, _⟩ | ⟨_, hi⟩ <;> cases hi
  exact ⟨hop, by simpa [Instr.WellFormed, Instr.wellFormed, hl] using ha⟩

theorem enc (src : List Byte) : Statement (.enc src) := by
  intro f h
  rcases decode_cases h with ⟨_, hi, _⟩ | ⟨hop, hi, hb⟩ | ⟨_, hi, _⟩ | ⟨_, hi⟩ <;> cases hi
  exact ⟨hop, hb⟩

theorem dec (src : List Byte) : Statement (.dec src) := by
  intro f h
  rcases decode_cases h with ⟨_, hi, _⟩ | ⟨_, hi, _⟩ | ⟨hop, hi, hb⟩ | ⟨_, hi⟩ <;> cases hi
  exact ⟨hop, hb⟩

theorem rsvd : Statement .rsvd := by
  intro f h
  rcases decode_cases h with ⟨_, hi, _⟩ | ⟨_, hi, _⟩ | ⟨_, hi, _⟩ | ⟨hop, _⟩
  · cases hi
  · cases hi
  · cases hi
  · exact ⟨hop, rfl⟩

end Sys2Proof.Laws.DecodedAs
end

