-- ==== Sys2Proof/Tests/Slice0.lean ====
section
/-!
SUPPORT. Tests. Expected results come from spec/ (95_test_vectors unless said otherwise), and every statement
with hypotheses has a witness here: a concrete state and operands that meet them.
-/

namespace Sys2Proof.Tests

open Sys2Proof.Machine Sys2Proof.Safety

/-! ## Parameters and words -/

/-- The relations among the fixed parameters (00_scope R7; 41_key_expansion R98). -/
theorem test_parameters : Config.schedLen = 2 * (Config.rounds + 1) ∧ Config.keyWords = Config.keySize / 4 ∧
    Config.nIter = 3 * max Config.schedLen Config.keyWords ∧ Config.blockSize = 2 * (Config.wordBits / 8) := by
  decide

/-- V-A1, V-A2, V-A3, V-A4. -/
theorem test_add_sub : add32 0xFFFFFFFF#32 1#32 = 0#32 ∧ add32 0xB7E15163#32 0x9E3779B9#32 = 0x5618CB1C#32 ∧
    sub32 0#32 1#32 = 0xFFFFFFFF#32 ∧ sub32 0x5618CB1C#32 0x9E3779B9#32 = 0xB7E15163#32 := by decide

/-- V-A5 to V-A10. -/
theorem test_rotl : rotl32 0x80000001#32 0 = 0x80000001#32 ∧ rotl32 0x80000001#32 1 = 0x00000003#32 ∧
    rotl32 0x80000001#32 31 = 0xC0000000#32 ∧ rotl32 0x80000001#32 32 = 0x80000001#32 ∧
    rotl32 0x12345678#32 35 = 0x91A2B3C0#32 ∧ rotl32 0xB7E15163#32 3 = 0xBF0A8B1D#32 := by decide

/-- V-A11 to V-A13. -/
theorem test_rotr : rotr32 0x80000001#32 0 = 0x80000001#32 ∧ rotr32 0x80000001#32 1 = 0xC0000000#32 ∧
    rotr32 0x12345678#32 4 = 0x81234567#32 ∧ rotr32 0x12345678#32 36 = 0x81234567#32 := by decide

/-- V-A14 to V-A19. -/
theorem test_xor_amount_bytes : xor32 0x9BBBD8C8#32 0x1A37F7FB#32 = 0x818C2F33#32 ∧
    rotAmount 0xBF0A8B1D#32 = 29 ∧ rotAmount (add32 0x68253CE6#32 0xB7E15163#32) = 9 ∧
    le32 0x01#8 0x02#8 0x03#8 0x04#8 = 0x04030201#32 ∧
    bytesLe32 0xEEDBA521#32 = #v[0x21#8, 0xA5#8, 0xDB#8, 0xEE#8] ∧
    (le32 0xFF#8 0xFF#8 0xFF#8 0xFF#8).toNat = 4294967295 := by decide

/-! ## WellFormed, and the decoder's refusals -/

/-- A block of 7 bytes and one of 9 are no commands of the interface (30_encoding R63). -/
theorem test_block_length_ill_formed : ¬ (Instr.enc (List.replicate 7 0#8)).WellFormed ∧
    ¬ (Instr.dec (List.replicate 9 0#8)).WellFormed ∧
    decode ⟨0b01#2, 0, List.replicate 7 0#8⟩ = .error (.blockBytes 7) ∧
    decode ⟨0b10#2, 0, List.replicate 9 0#8⟩ = .error (.blockBytes 9) := by decide

/-- A key longer than `KLEN_MAX` is no command of the interface (30_encoding R67). -/
theorem test_key_length_ill_formed : ¬ (Instr.kexp (List.replicate (Config.klenMax + 1) 0#8)).WellFormed := by
  simp [Instr.WellFormed, Instr.wellFormed, Laws.klenAdmitted_iff]

/-- A frame whose key bytes are not as many as `klen` says (30_encoding R62). -/
theorem test_key_bytes_mismatch : decode ⟨0b00#2, 16, List.replicate 15 0#8⟩ = .error (.keyBytes 16 15) := by
  decide

/-! ## Decoding -/

/-- Program 2, command 2: `op=00 klen=15 key=000102030405060708090A0B0C0D0E`. -/
theorem test_decode_kexp :
    decode ⟨0b00#2, 15, [0x00#8, 0x01#8, 0x02#8, 0x03#8, 0x04#8, 0x05#8, 0x06#8, 0x07#8, 0x08#8, 0x09#8, 0x0A#8,
      0x0B#8, 0x0C#8, 0x0D#8, 0x0E#8]⟩ =
    .ok (.kexp [0x00#8, 0x01#8, 0x02#8, 0x03#8, 0x04#8, 0x05#8, 0x06#8, 0x07#8, 0x08#8, 0x09#8, 0x0A#8, 0x0B#8, 0x0C#8,
      0x0D#8, 0x0E#8]) := by decide

/-- `KEXP` with no bytes, `klen = 0`, is a legal encoding (V-K5; 30_encoding R67). -/
theorem test_decode_kexp_empty : decode ⟨0b00#2, 0, []⟩ = .ok (.kexp []) := by decide

/-- Program 2, command 1: `op=01 src=0011223344556677`. -/
theorem test_decode_enc : decode ⟨0b01#2, 0, [0x00#8, 0x11#8, 0x22#8, 0x33#8, 0x44#8, 0x55#8, 0x66#8, 0x77#8]⟩ =
    .ok (.enc [0x00#8, 0x11#8, 0x22#8, 0x33#8, 0x44#8, 0x55#8, 0x66#8, 0x77#8]) := by decide

/-- Program 2, command 7: `op=10 src=2DDC149BCF088B9E`. -/
theorem test_decode_dec : decode ⟨0b10#2, 0, [0x2D#8, 0xDC#8, 0x14#8, 0x9B#8, 0xCF#8, 0x08#8, 0x8B#8, 0x9E#8]⟩ =
    .ok (.dec [0x2D#8, 0xDC#8, 0x14#8, 0x9B#8, 0xCF#8, 0x08#8, 0x8B#8, 0x9E#8]) := by decide

/-- Program 2, command 6: `op=11`; the reserved command reads no operand (30_encoding R67). -/
theorem test_decode_rsvd : decode ⟨0b11#2, 0, []⟩ = .ok .rsvd ∧ decode ⟨0b11#2, 5, [0xFF#8]⟩ = .ok .rsvd := by decide

/-- The four rows of spec/opcode_table.json. -/
theorem test_table_words : decodeTableWord 8 0 = some (.kexp []) ∧
    decodeTableWord 8 1 = some (.enc (List.replicate 8 0#8)) ∧
    decodeTableWord 8 2 = some (.dec (List.replicate 8 0#8)) ∧ decodeTableWord 8 3 = some .rsvd := by decide

/-! ## The commands, one step each -/

/-- A state whose 26 schedule words are given, with nothing pending and nothing answered. -/
def stateWith (kv : Bool) (sched : Schedule) (events : List HostEvent) : State :=
  { sched := sched, kv := kv, pending := events, responses := [], draws := 0 }

/-- The all-zero schedule of V-B5. -/
def zeroSched : Schedule := Vector.replicate 26 0#32

/-- The counting schedule of V-B5, `S[k] = k`. -/
def countingSched : Schedule := Vector.ofFn fun k => BitVec.ofNat 32 k.val

/-- The high schedule of V-B5, `S[k] = 0xFFFFFFFF - k`. -/
def highSched : Schedule := Vector.ofFn fun k => BitVec.ofNat 32 (0xFFFFFFFF - k.val)

/-- The key `00 01 .. 0F` of V-K2. -/
def countingKey : List Byte := (List.range 16).map fun n => BitVec.ofNat 8 n

/-- What a test looks at in a next state: `KV`, some schedule words, the responses. -/
def seen (o : Machine.Outcome) (words : List (Fin 26)) : Option (Bool × List Word × List Response) :=
  match o with
  | .next s => some (s.kv, words.map fun k => s.sched[k], s.responses)
  | _ => none

/-- V-K2: words 0, 1, 24 and 25 of the schedule of the key `00 01 .. 0F`, from an unkeyed state. -/
theorem test_kexp_schedule : seen (exec (.kexp countingKey) (stateWith false zeroSched [])) [0, 1, 24, 25] =
    some (true, [0xD447E233#32, 0xD82EEC20#32, 0x7AEC5407#32, 0x15E8E206#32], [.kexpOk]) := by decide +kernel

/-- V-K5, Program 3 command 8: 17 bytes while keyed: the error, and no schedule is left. -/
theorem test_kexp_wrong_length :
    seen (exec (.kexp (countingKey ++ [0x00#8])) (stateWith true zeroSched [])) [] =
    some (false, [], [.invalidKeySize 17]) := by decide +kernel

/-- V-B5, counting schedule: `ENC 01 23 45 67 89 AB CD EF`. -/
theorem test_enc_counting :
    seen (exec (.enc [0x01#8, 0x23#8, 0x45#8, 0x67#8, 0x89#8, 0xAB#8, 0xCD#8, 0xEF#8]) (stateWith true countingSched [])) [25]
    = some (true, [25#32], [.blockOk #v[0xED#8, 0x99#8, 0x5B#8, 0xDF#8, 0x25#8, 0x61#8, 0xDE#8, 0x38#8]]) := by
  decide +kernel

/-- Program 2 command 1: `ENC` before keying is answered `NoSchedule`. -/
theorem test_enc_unkeyed : seen (exec (.enc (List.replicate 8 0#8)) (stateWith false zeroSched [])) [] =
    some (false, [], [.noSchedule]) := by decide +kernel

/-- V-B5, high schedule: `decrypt` of zeros, every subtraction borrows. -/
theorem test_dec_high : seen (exec (.dec (List.replicate 8 0#8)) (stateWith true highSched [])) [0] =
    some (true, [0xFFFFFFFF#32], [.blockOk #v[0x94#8, 0x12#8, 0xEE#8, 0xF3#8, 0x23#8, 0x58#8, 0x8E#8, 0x7B#8]]) := by
  decide +kernel

/-- `BadBlockSize` comes before `NoSchedule` (60_exceptions R145). -/
theorem test_dec_bad_length :
    (match exec (.dec (List.replicate 9 0#8)) (stateWith false zeroSched []) with
      | .fault f => f == .badBlockSize
      | _ => false) = true := by decide +kernel

/-- Program 2 command 6: the reserved command while keyed changes nothing but the responses. -/
theorem test_rsvd : seen (exec .rsvd (stateWith true countingSched [])) [3] =
    some (true, [3#32], [.illegalCommand]) := by decide +kernel

/-- The zero key's whole path by the interface: `KEXP 00 x16` as the first step after reset (V-K1). -/
theorem test_step_kexp_zero_key :
    seen (step { State.reset with pending := [.command ⟨0b00#2, 16, List.replicate 16 0#8⟩] }) [0, 25] =
    some (true, [0x9BBBD8C8#32, 0x65046380#32], [.kexpOk]) := by decide +kernel

/-- The reset event while keyed (70 R171). -/
theorem test_step_reset : seen (step (stateWith true countingSched [.reset])) [] = some (false, [], []) := by
  decide +kernel

/-- The table's word for the reserved command, run as the first step after reset. -/
theorem test_step_table_word : seen (step (State.reset.withFetchWord 8 3)) [] = some (false, [], [.illegalCommand]) := by
  decide +kernel

/-! ## Witnesses -/

/-- The zero key. -/
def zeroKey : Key := Vector.replicate 16 0#8

/-- The zero block. -/
def zeroBlock : Block := Vector.replicate 8 0#8

/-- A keyed state, and an unkeyed one. -/
def keyed : State := stateWith true zeroSched []
def unkeyed : State := stateWith false zeroSched []

/-- A frame of each format. -/
def kexpFrame : Frame := ⟨0b00#2, 16, List.replicate 16 0#8⟩
def encFrame : Frame := ⟨0b01#2, 0, List.replicate 8 0#8⟩

theorem witness_RotationsMoveBits : (31 < 32) ∧ (31 + 1) % 32 = 0 ∧
    (rotl32 0x80000000#32 1).getLsbD 0 = true ∧ (rotr32 0x00000001#32 1).getLsbD 31 = true := by decide

theorem witness_RotationsInvertAndReduce : 32 % 32 = 0 ∧ rotl32 0x80000001#32 32 = 0x80000001#32 := by decide

theorem witness_BufferWriteReadsBackAndFrames : (4 + 3 < 8) ∧ ((3 < 8) ∧ (3 < 4 ∨ 4 + 3 < 3)) ∧
    (memWrite zeroBlock 0 (by decide) 0xFFFFFFFF#32)[4] = 0#8 ∧
    memRead (memWrite zeroBlock 4 (by decide) 0x01020304#32) 4 (by decide) = 0x01020304#32 := by decide

theorem witness_LittleEndianWords : (12 + 3 < 16) ∧
    memRead (Vector.ofFn fun k : Fin 16 => BitVec.ofNat 8 k.val) 12 (by decide) = 0x0F0E0D0C#32 := by decide

theorem witness_BusLanesFollowByteOrder : (1 < [0x01#8, 0x02#8].length) ∧ busValue [0x01#8, 0x02#8] = 0x0201 := by
  decide

theorem witness_MagicTableRecurrence : 24 < 25 ∧ 25 < 26 ∧ MT[25] = 0x2B4C3474#32 := by decide +kernel

theorem witness_ExpansionFollowsTheAlgorithm : 0 < 78 ∧ 77 < 78 ∧ (0 : Fin 26) ≠ 1 ∧ (0 : Fin 4) ≠ 1 := by
  decide

theorem witness_EachScheduleWordIsRewrittenThreeTimes :
    78 ≤ 78 ∧ (77 < 78 ∧ 77 ≠ (0 : Fin 26).val ∧ 77 ≠ (0 : Fin 26).val + 26 ∧ 77 ≠ (0 : Fin 26).val + 52) ∧
    (77 = (25 : Fin 26).val ∨ 77 = (25 : Fin 26).val + 26 ∨ 77 = (25 : Fin 26).val + 52) ∧
    77 % 4 ≠ (0 : Fin 4).val := by decide

theorem witness_ExpandChecksTheLengthOnly : ([] : List Byte).length ≠ 16 ∧ (List.replicate 17 0#8).length ≠ 16 := by
  decide

theorem witness_FailedKexpInvalidatesTheSchedule :
    (List.replicate 15 0#8).length ≠ 16 ∧ (List.replicate 17 0#8).length ≠ 16 := by decide

theorem witness_InvalidKeySizeIsRecoverable :
    (List.replicate 32 0#8).length ≠ 16 ∧ (List.replicate 32 1#8).length = (List.replicate 32 0#8).length := by decide

theorem witness_EncryptFollowsTheAlgorithm : 0 < 12 ∧ 11 < 12 ∧ 2 * (11 + 1) + 1 = 25 := by decide

theorem witness_DecryptFollowsTheAlgorithm : 0 < 12 ∧ 11 < 12 := by decide

theorem witness_EncAnswersTheCiphertext : keyed.kv = true := by decide

theorem witness_DecAnswersThePlaintext : keyed.kv = true := by decide

theorem witness_TransformWithoutScheduleIsAnsweredNoSchedule : unkeyed.kv = false ∧ State.reset.kv = false := by decide

theorem witness_WrongBlockLengthStopsBeforeTheState : (List.replicate 7 0#8).length ≠ 8 ∧ ([] : List Byte).length ≠ 8 := by
  decide

theorem witness_TransformsOfByteSequencesCheckLengths :
    ((List.replicate 7 0#8).length ≠ 8 ∨ (List.replicate 8 0#8).length ≠ 8) ∧
    ((List.replicate 8 0#8).length ≠ 8 ∨ (List.replicate 9 0#8).length ≠ 8) := by decide

theorem witness_TransformsCommute :
    (Instr.enc zeroBlock.toList = .enc zeroBlock.toList ∨ Instr.enc zeroBlock.toList = .dec zeroBlock.toList) ∧
    (Instr.dec zeroBlock.toList = .enc zeroBlock.toList ∨ Instr.dec zeroBlock.toList = .dec zeroBlock.toList) := by decide

theorem witness_ReservedCommandIsAnsweredIllegalCommand : (⟨0b11#2, 3, [0x00#8]⟩ : Frame).op = 0b11#2 := by decide

/-- A command of each kind that answers a next state: one that writes `S` and `KV`, and one that does not. -/
theorem witness_CommandFrames :
    (∃ t, exec (.kexp zeroKey.toList) unkeyed = .next t ∧ t.kv = true) ∧
    (∃ t, exec .rsvd keyed = .next t ∧ t.kv = true) ∧ (∀ key, Instr.rsvd ≠ .kexp key) :=
  ⟨⟨_, rfl, rfl⟩, ⟨_, rfl, rfl⟩, fun _ h => by cases h⟩

theorem witness_ResponseDependsOnScheduleAndValidBitOnly :
    keyed.sched = (keyed.respond .kexpOk).sched ∧ keyed.kv = (keyed.respond .kexpOk).kv ∧
    (∃ t, exec (.enc zeroBlock.toList) keyed = .next t ∧ t.kv = true) ∧
    (∃ t, exec (.kexp []) keyed = .next t ∧ t.kv = false) :=
  ⟨rfl, rfl, ⟨_, rfl, rfl⟩, ⟨_, rfl, rfl⟩⟩

theorem witness_NoFaultWithAValidSchedule :
    keyed.kv = true ∧ (Instr.enc zeroBlock.toList).WellFormed ∧ Instr.enc zeroBlock.toList ≠ .rsvd := by decide

theorem witness_DecodeEncode : (Instr.kexp (List.replicate 32 0#8)).WellFormed ∧
    (Instr.enc zeroBlock.toList).WellFormed ∧ (Instr.dec zeroBlock.toList).WellFormed ∧ Instr.rsvd.WellFormed := by decide

theorem witness_DecodeTakesEveryOperandByte :
    decode kexpFrame = .ok (.kexp kexpFrame.operand) ∧ kexpFrame.op = 0b00#2 ∧
    decode encFrame = .ok (.enc encFrame.operand) ∧ (encFrame.op = 0b01#2 ∨ encFrame.op = 0b10#2) := by decide

theorem witness_KeyLengthsUpTo32CanBePresented : (List.replicate 32 0#8).length ≤ 32 ∧
    Config.klenMax < (List.replicate (Config.klenMax + 1) 0#8).length :=
  ⟨by decide, by simp⟩

/-- A keyed state that meets the invariant, with a transform to run, and one with the reset event. -/
theorem witness_StepKeepsScheduleValid :
    ScheduleValid (stateWith true (expandKey zeroKey) [.command encFrame]) ∧
    (∃ t, step (stateWith true (expandKey zeroKey) [.command encFrame]) = .next t ∧ t.kv = true) :=
  ⟨fun _ => ⟨zeroKey, rfl⟩, ⟨_, rfl, rfl⟩⟩

theorem witness_OnlyKexpAndResetChangeTheSchedule :
    (∃ t, step (stateWith true zeroSched [.command encFrame]) = .next t) ∧
    (∀ rest, (stateWith true zeroSched [.command encFrame]).pending ≠ .reset :: rest) ∧
    (∀ f rest, (stateWith true zeroSched [.command encFrame]).pending = .command f :: rest → f.op ≠ 0b00#2) := by
  refine ⟨⟨_, rfl⟩, fun rest h => by simp [stateWith] at h, fun f rest h => ?_⟩
  simp only [stateWith, List.cons.injEq, HostEvent.command.injEq] at h
  rw [← h.1]
  decide

/-- The bit is set by a `KEXP` of 16 bytes, and cleared by one of 17 and by the reset event. -/
theorem witness_ValidBitChangesOnlyByKexpOrReset :
    (∃ t, step (stateWith false zeroSched [.command kexpFrame]) = .next t ∧ t.kv = true) ∧
    (∃ t, step (stateWith true zeroSched [.command ⟨0b00#2, 17, List.replicate 17 0#8⟩]) = .next t ∧ t.kv = false) ∧
    (∃ t, step (stateWith true zeroSched [.reset]) = .next t ∧ t.kv = false) :=
  ⟨⟨_, rfl, rfl⟩, ⟨_, rfl, rfl⟩, ⟨_, rfl, rfl⟩⟩

theorem witness_StepRunsTheDecodedCommand :
    (stateWith true zeroSched [.command encFrame, .reset]).pending = .command encFrame :: [.reset] ∧
    decode encFrame = .ok (.enc encFrame.operand) := by decide

theorem witness_EveryCommandGetsOneResponse :
    (stateWith false zeroSched [.command ⟨0b11#2, 0, []⟩]).pending = .command ⟨0b11#2, 0, []⟩ :: [] ∧
    decode ⟨0b11#2, 0, []⟩ = .ok .rsvd := by decide

theorem witness_ResetEventLeavesNoSchedule : (stateWith true zeroSched [.reset]).pending = .reset :: [] := by decide

theorem witness_IdleStepChangesNothing : keyed.pending = [] ∧ State.reset.pending = [] := by decide

/-- One frame for each clause. -/
theorem witness_FramesOutsideTheInterfaceAreTurnedAway :
    ((⟨0b00#2, 16, List.replicate 15 0#8⟩ : Frame).operand.length ≠ 16) ∧
    ((⟨0b00#2, Config.klenMax + 1, List.replicate (Config.klenMax + 1) 0#8⟩ : Frame).operand.length =
      Config.klenMax + 1 ∧ Config.klenMax < Config.klenMax + 1) ∧
    ((⟨0b10#2, 0, List.replicate 7 0#8⟩ : Frame).operand.length ≠ 8) :=
  ⟨by decide, ⟨by simp, by omega⟩, by decide⟩

theorem witness_EveryRunEnds :
    ∀ e ∈ (stateWith false zeroSched [.command encFrame, .reset, .command kexpFrame]).pending, Presentable e := by
  intro e he
  simp only [stateWith, List.mem_cons, List.not_mem_nil, or_false] at he
  rcases he with rfl | rfl | rfl
  · exact ⟨.enc encFrame.operand, by decide⟩
  · trivial
  · exact ⟨.kexp kexpFrame.operand, by decide⟩

end Sys2Proof.Tests
end

/-!
PROOFS. Little-endian conversion between bytes and words, buffer access, and the packing of keys and blocks
(20_memory section 2). Both directions of the conversion are turned once into arithmetic on `toNat`
(`le32_toNat`, `byteOf_toNat`); that they are inverse to each other is then division by powers of 256.
-/

namespace Sys2Proof.Machine

/-- The sum of R41 is below 2^32, so the word holds it unreduced. -/
theorem le32_toNat (b0 b1 b2 b3 : Byte) : (le32 b0 b1 b2 b3).toNat =
    b0.toNat + 256 * b1.toNat + 65536 * b2.toNat + 16777216 * b3.toNat := by
  rw [le32, BitVec.toNat_ofNat]
  exact Nat.mod_eq_of_lt (by omega)

theorem byteOf_toNat (v : Word) (k : Nat) : (byteOf v k).toNat = v.toNat / 2 ^ (8 * k) % 256 := by
  rw [byteOf, BitVec.extractLsb'_toNat, Nat.shiftRight_eq_div_pow]

/-- R42's inverse law, from words to bytes and back. -/
theorem le32_byteOf (v : Word) : le32 (byteOf v 0) (byteOf v 1) (byteOf v 2) (byteOf v 3) = v := by
  apply BitVec.eq_of_toNat_eq
  simp only [le32_toNat, byteOf_toNat]
  omega

/-- Each byte of R41's sum is its digit in base 256. -/
@[simp] theorem byteOf_le32 (b0 b1 b2 b3 : Byte) :
    byteOf (le32 b0 b1 b2 b3) 0 = b0 ∧ byteOf (le32 b0 b1 b2 b3) 1 = b1 ∧
    byteOf (le32 b0 b1 b2 b3) 2 = b2 ∧ byteOf (le32 b0 b1 b2 b3) 3 = b3 := by
  refine ⟨?_, ?_, ?_, ?_⟩ <;>
  · apply BitVec.eq_of_toNat_eq
    simp only [byteOf_toNat, le32_toNat]
    omega

/-- R42's inverse law, from bytes to a word and back. -/
theorem bytesLe32_le32 (b0 b1 b2 b3 : Byte) : bytesLe32 (le32 b0 b1 b2 b3) = #v[b0, b1, b2, b3] := by
  simp [bytesLe32]

/-- The four bytes that `memWrite` writes: of the four nested updates, only the one at the same offset counts. -/
theorem memWrite_getElem_add {n : Nat} (buf : Vector Byte n) (k : Nat) (h : k + 3 < n) (v : Word) (d : Fin 4) :
    (memWrite buf k h v)[k + d.val] = (bytesLe32 v)[d] := by
  fin_cases d <;> simp [memWrite]

theorem packKey_getElem (key : Key) (k : Fin 4) :
    (packKey key)[k] = memRead key (4 * k.val) (by omega) := by
  simp [packKey]

/-- What was stored is loaded again: the stored bytes are those of the two words, whatever `dst` held. -/
theorem loadBlock_storeBlock (dst : Block) (w : BlockWords) : loadBlock (storeBlock dst w) = w := by
  rw [storeBlock_eq]
  exact congrArg₂ BlockWords.mk (le32_byteOf w.a) (le32_byteOf w.b)

/-- What was loaded is stored again, byte by byte. -/
theorem storeBlock_loadBlock (dst src : Block) : storeBlock dst (loadBlock src) = src := by
  rw [storeBlock_eq]
  ext i hi
  interval_cases i <;> simp [loadBlock, memRead]

end Sys2Proof.Machine

namespace Sys2Proof.Proofs

open Sys2Proof.Machine

/-- Settles O6. Both inverse laws are the arithmetic of `le32_toNat` and `byteOf_toNat`. -/
theorem littleEndianWords : Obligations.LittleEndianWords := by
  unfold Obligations.LittleEndianWords
  exact ⟨le32_toNat, fun _ _ _ _ => rfl, fun _ => rfl, bytesLe32_le32, le32_byteOf,
    fun _ => memWrite_getElem_add, by decide, by decide⟩

/-- Settles O8. The packings are `memRead` and `memWrite` at the word offsets; the two round trips are the inverse
laws of R42. -/
theorem keyAndBlockPacking : Obligations.KeyAndBlockPacking := by
  unfold Obligations.KeyAndBlockPacking
  refine ⟨packKey_getElem, fun key => ⟨?firstByte, ?lastByte⟩, fun _ => ⟨rfl, rfl⟩, fun dst w => ?stored,
    loadBlock_storeBlock, storeBlock_loadBlock, by decide, fun dst => ?storedExample⟩
  case firstByte =>
    have h : (packKey key)[0] = le32 key[0] key[1] key[2] key[3] := packKey_getElem key 0
    change byteOf (packKey key)[0] 0 = key[0]
    simp only [h, byteOf_le32]
  case lastByte =>
    have h : (packKey key)[3] = le32 key[12] key[13] key[14] key[15] := packKey_getElem key 3
    change byteOf (packKey key)[3] 3 = key[15]
    simp only [h, byteOf_le32]
  case stored =>
    rw [storeBlock_eq]
    rfl
  case storedExample =>
    rw [storeBlock_eq]
    decide

end Sys2Proof.Proofs

/-!
PROOFS. The key schedule expander (41_key_expansion): what one iteration of step 4 writes, line by line, and what it
leaves unchanged; where the two indices stand after any number of iterations.
-/

namespace Sys2Proof.Machine

/-- Line 1 of step 4: `A` and `B` are those the iteration before left. -/
@[simp] theorem mixIteration_s_at (m : KexpLocals) :
    (mixIteration m).s[m.i] = rotl32 (add32 (add32 m.s[m.i] m.a) m.b) 3 := by
  simp [mixIteration]

/-- Line 2 of step 4. -/
theorem mixIteration_a (m : KexpLocals) : (mixIteration m).a = (mixIteration m).s[m.i] := by
  simp [mixIteration]

/-- Line 3 of step 4: `A` is the new value, `B` still the old one, in the sum and in the amount (R96). -/
@[simp] theorem mixIteration_l_at (m : KexpLocals) :
    (mixIteration m).l[m.j] =
      rotl32 (add32 (add32 m.l[m.j] (mixIteration m).a) m.b) (rotAmount (add32 (mixIteration m).a m.b)) := by
  simp [mixIteration]

/-- Line 4 of step 4. -/
theorem mixIteration_b (m : KexpLocals) : (mixIteration m).b = (mixIteration m).l[m.j] := by
  simp [mixIteration]

/-- Line 5 of step 4. -/
@[simp] theorem mixIteration_i_val (m : KexpLocals) : (mixIteration m).i.val = (m.i.val + 1) % 26 := rfl

/-- Line 6 of step 4. -/
@[simp] theorem mixIteration_j_val (m : KexpLocals) : (mixIteration m).j.val = (m.j.val + 1) % 4 := rfl

/-- The frame of an iteration in `S`. -/
theorem mixIteration_s_of_ne (m : KexpLocals) {k : Fin 26} (h : k ≠ m.i) : (mixIteration m).s[k] = m.s[k] :=
  Vector.getElem_set_ne m.i.isLt k.isLt (Fin.val_ne_of_ne h.symm)

/-- The frame of an iteration in `L`. -/
theorem mixIteration_l_of_ne (m : KexpLocals) {k : Fin 4} (h : k ≠ m.j) : (mixIteration m).l[k] = m.l[k] :=
  Vector.getElem_set_ne m.j.isLt k.isLt (Fin.val_ne_of_ne h.symm)

@[simp] theorem expandInit_i (key : Key) : (expandInit key).i = 0 := rfl

@[simp] theorem expandInit_j (key : Key) : (expandInit key).j = 0 := rfl

theorem mixIterations_succ (t : Nat) (m : KexpLocals) :
    mixIterations (t + 1) m = mixIteration (mixIterations t m) := rfl

theorem mixIterations_i_val (t : Nat) (m : KexpLocals) : (mixIterations t m).i.val = (m.i.val + t) % 26 := by
  induction t with
  | zero => exact (Nat.mod_eq_of_lt m.i.isLt).symm
  | succ t ih => rw [mixIterations_succ, mixIteration_i_val, ih]; omega

theorem mixIterations_j_val (t : Nat) (m : KexpLocals) : (mixIterations t m).j.val = (m.j.val + t) % 4 := by
  induction t with
  | zero => exact (Nat.mod_eq_of_lt m.j.isLt).symm
  | succ t ih => rw [mixIterations_succ, mixIteration_j_val, ih]; omega

/-- The working registers of a key's expansion before iteration `t` of step 4. -/
def expandLocals (key : Key) (t : Nat) : KexpLocals := mixIterations t (expandInit key)

/-- `i = t mod 26` before iteration `t`. -/
theorem expandLocals_i_val (key : Key) (t : Nat) : (expandLocals key t).i.val = t % 26 := by
  simp [expandLocals, mixIterations_i_val]

/-- `j = t mod 4` before iteration `t`. -/
theorem expandLocals_j_val (key : Key) (t : Nat) : (expandLocals key t).j.val = t % 4 := by
  simp [expandLocals, mixIterations_j_val]

theorem expand_toList (key : Key) : expand key.toList = .ok (expandKey key) := by
  simp [expand, toKey?_eq_some.2 rfl]

theorem expand_of_length_ne {key : List Byte} (h : key.length ≠ 16) : expand key = .error key.length := by
  simp [expand, toKey?_eq_none.2 h]

end Sys2Proof.Machine

namespace Sys2Proof.Proofs

open Sys2Proof.Machine

/-- Settles O12. The sequences are the fields of `expandLocals`: every line of step 4 is
one lemma about `mixIteration`, and the last indices are 78 modulo 26 and modulo 4. -/
theorem expansionFollowsTheAlgorithm : Obligations.ExpansionFollowsTheAlgorithm := by
  unfold Obligations.ExpansionFollowsTheAlgorithm
  intro key
  refine ⟨fun t => (expandLocals key t).s, fun t => (expandLocals key t).l, fun t => (expandLocals key t).a,
    fun t => (expandLocals key t).b, fun t => (expandLocals key t).i, fun t => (expandLocals key t).j,
    packKey_getElem key, fun _ => rfl, rfl, rfl, rfl, rfl, fun t _ => ?iteration, ⟨?lastI, ?lastJ⟩, expandKey_eq key⟩
  case iteration =>
    let m := expandLocals key t
    exact ⟨mixIteration_s_at m, mixIteration_a m, mixIteration_l_at m, mixIteration_b m,
      mixIteration_i_val m, mixIteration_j_val m, fun _ => mixIteration_s_of_ne m, fun _ => mixIteration_l_of_ne m⟩
  case lastI => exact Fin.ext (expandLocals_i_val key 78)
  case lastJ => exact Fin.ext (expandLocals_j_val key 78)

/-- Settles O14. The length alone decides whether `toKey?` finds a key. -/
theorem expandChecksTheLengthOnly : Obligations.ExpandChecksTheLengthOnly := by
  unfold Obligations.ExpandChecksTheLengthOnly
  exact ⟨expand_toList, fun _ => expand_of_length_ne⟩

end Sys2Proof.Proofs

/-!
PROOFS. The word operations of the transforms, and how each is undone (00_scope R12 to R16). A rotation splits a
word into a high and a low part and swaps them: `rotl32_toNat` and `rotr32_toNat` say so for every amount, 0
included.
-/

namespace Sys2Proof.Machine

theorem sub32_add32 (a b : Word) : sub32 (add32 a b) b = a := BitVec.add_sub_cancel a b

theorem xor32_xor32 (a b : Word) : xor32 (xor32 a b) b = a := by
  rw [xor32, xor32, BitVec.xor_assoc, BitVec.xor_self, BitVec.xor_zero]

/-- The width split at a rotation amount. -/
theorem two_pow_mod_mul_two_pow_sub_mod (n : Nat) : 2 ^ (n % 32) * 2 ^ (32 - n % 32) = 2 ^ 32 := by
  rw [← Nat.pow_add, Nat.add_sub_of_le (Nat.mod_lt n (by decide)).le]

/-- The part of a word above the split. -/
theorem toNat_div_lt (x : Word) {p q : Nat} (h : p * q = 2 ^ 32) : x.toNat / q < p :=
  Nat.div_lt_of_lt_mul (by rw [Nat.mul_comm, h]; exact x.isLt)

/-- The sum of R15 and R16 joins the word's low part, moved up, with its high part, moved down, and fits in 32 bits. -/
theorem toNat_ofNat_swap (x : Word) {p q : Nat} (h : p * q = 2 ^ 32) :
    (BitVec.ofNat 32 (x.toNat * p % 2 ^ 32 + x.toNat / q)).toNat = p * (x.toNat % q) + x.toNat / q := by
  have hq : 0 < q := Nat.pos_of_ne_zero fun h0 => by simp [h0] at h
  have hhigh := toNat_div_lt x h
  have hfit : p * (x.toNat % q + 1) ≤ p * q := Nat.mul_le_mul_left p (Nat.mod_lt _ hq)
  rw [Nat.mul_add_one, h] at hfit
  rw [BitVec.toNat_ofNat, Nat.mul_comm x.toNat, ← h, Nat.mul_mod_mul_left, h, Nat.mod_eq_of_lt (by omega)]

/-- R15: the low `32 - n` bits move up, the high `n` bits come in below. -/
theorem rotl32_toNat (x : Word) (n : Nat) : (rotl32 x n).toNat =
    2 ^ (n % 32) * (x.toNat % 2 ^ (32 - n % 32)) + x.toNat / 2 ^ (32 - n % 32) := by
  simp only [rotl32]
  split
  case isTrue h => simp [h, Nat.div_eq_of_lt x.isLt, Nat.mod_eq_of_lt x.isLt]
  case isFalse => exact toNat_ofNat_swap x (two_pow_mod_mul_two_pow_sub_mod n)

/-- R16: the low `n` bits move up, the high `32 - n` bits come in below. -/
theorem rotr32_toNat (x : Word) (n : Nat) : (rotr32 x n).toNat =
    2 ^ (32 - n % 32) * (x.toNat % 2 ^ (n % 32)) + x.toNat / 2 ^ (n % 32) := by
  simp only [rotr32]
  split
  case isTrue h => simp [h, Nat.mod_one]
  case isFalse =>
    rw [Nat.add_comm]
    exact toNat_ofNat_swap x (by rw [Nat.mul_comm, two_pow_mod_mul_two_pow_sub_mod])

/-- Rotating right finds again the two parts that rotating left swapped. -/
theorem rotr32_rotl32 (x : Word) (n : Nat) : rotr32 (rotl32 x n) n = x := by
  apply BitVec.eq_of_toNat_eq
  have hhigh := toNat_div_lt x (two_pow_mod_mul_two_pow_sub_mod n)
  rw [rotr32_toNat, rotl32_toNat, Nat.mul_add_mod, Nat.mod_eq_of_lt hhigh, Nat.mul_add_div (Nat.two_pow_pos _),
    Nat.div_eq_of_lt hhigh, Nat.add_zero, Nat.div_add_mod]

end Sys2Proof.Machine

/-!
PROOFS. The block transform (42_block_transform): the words between two rounds as a sequence, for each transform;
`decrypt` undoes `encrypt` line by line; the bytes stored are those of the last two words, whatever the destination
held.
-/

namespace Sys2Proof.Machine

/-- R114, R125: `A`'s four bytes, then `B`'s. -/
theorem storeBlock_toList (dst : Block) (w : BlockWords) :
    (storeBlock dst w).toList = (bytesLe32 w.a).toList ++ (bytesLe32 w.b).toList := by
  rw [storeBlock_eq]
  rfl

theorem storeBlock_dst_irrelevant (dst dst' : Block) (w : BlockWords) : storeBlock dst w = storeBlock dst' w := by
  rw [storeBlock_eq, storeBlock_eq]

/-- R112, the first line. -/
theorem encRound_a (S : Schedule) (r : Nat) (h : r ≤ 12) (w : BlockWords) :
    (encRound S r h w).a = add32 (rotl32 (xor32 w.a w.b) (rotAmount w.b)) S[2 * r] := rfl

/-- R112, the second line: `A` is the new value (R113). -/
theorem encRound_b (S : Schedule) (r : Nat) (h : r ≤ 12) (w : BlockWords) : (encRound S r h w).b =
    add32 (rotl32 (xor32 w.b (encRound S r h w).a) (rotAmount (encRound S r h w).a)) S[2 * r + 1] := rfl

/-- R122, the first line. -/
theorem decRound_b (S : Schedule) (r : Nat) (h : r ≤ 12) (w : BlockWords) :
    (decRound S r h w).b = xor32 (rotr32 (sub32 w.b S[2 * r + 1]) (rotAmount w.a)) w.a := rfl

/-- R122, the second line: `B` is the new value (R123). -/
theorem decRound_a (S : Schedule) (r : Nat) (h : r ≤ 12) (w : BlockWords) : (decRound S r h w).a =
    xor32 (rotr32 (sub32 w.a S[2 * r]) (rotAmount (decRound S r h w).b)) (decRound S r h w).b := rfl

/-- The words after round `r` of `encrypt`; after the twelfth they stay. -/
def encWordsAfter (S : Schedule) (w : BlockWords) (r : Nat) : BlockWords :=
  encRounds S (min r 12) (Nat.min_le_right r 12) (whiten S w)

theorem encWordsAfter_zero (S : Schedule) (w : BlockWords) : encWordsAfter S w 0 = whiten S w := rfl

theorem encWordsAfter_twelve (S : Schedule) (w : BlockWords) : encWordsAfter S w 12 = encryptWords S w := rfl

theorem encWordsAfter_succ (S : Schedule) (w : BlockWords) {r : Nat} (hr : r < 12) :
    encWordsAfter S w (r + 1) = encRound S (r + 1) hr (encWordsAfter S w r) := by
  simp only [encWordsAfter, Nat.min_eq_left hr.le, Nat.min_eq_left (Nat.succ_le_of_lt hr), encRounds]

/-- The words before round `r` is undone, in a run of `decrypt` from round `n` down to round 1 that starts with `w`;
at `r = 0` those it leaves. -/
def decWordsBefore (S : Schedule) : (n : Nat) → n ≤ 12 → BlockWords → Nat → BlockWords
  | 0, _, w, _ => w
  | n + 1, h, w, r => if r = n + 1 then w else decWordsBefore S n (by omega) (decRound S (n + 1) h w) r

theorem decWordsBefore_self (S : Schedule) (n : Nat) (h : n ≤ 12) (w : BlockWords) :
    decWordsBefore S n h w n = w := by
  cases n <;> simp [decWordsBefore]

theorem decWordsBefore_zero (S : Schedule) (n : Nat) (h : n ≤ 12) (w : BlockWords) :
    decWordsBefore S n h w 0 = decRounds S n h w := by
  induction n generalizing w with
  | zero => rfl
  | succ n ih => simp [decWordsBefore, decRounds, ih]

theorem decWordsBefore_of_lt (S : Schedule) (n : Nat) (h : n ≤ 12) (w : BlockWords) {r : Nat} (hr : r < n) :
    decWordsBefore S n h w r = decRound S (r + 1) (by omega) (decWordsBefore S n h w (r + 1)) := by
  induction n generalizing w with
  | zero => omega
  | succ n ih =>
    obtain rfl | hlt := Nat.eq_or_lt_of_le (Nat.le_of_lt_succ hr)
    · simp [decWordsBefore, decWordsBefore_self]
    · simp only [decWordsBefore, Nat.ne_of_lt hr, Nat.add_right_cancel_iff, Nat.ne_of_lt hlt, if_false]
      exact ih _ _ hlt

theorem unwhiten_whiten (S : Schedule) (w : BlockWords) : unwhiten S (whiten S w) = w := by
  simp only [unwhiten, whiten, sub32_add32]

/-- `decRound` first undoes the second line of `encRound`, with the same `A`, then the first, with the old `B` just
restored: each time add, rotate and xor are undone from the outside in. -/
theorem decRound_encRound (S : Schedule) (r : Nat) (h : r ≤ 12) (w : BlockWords) :
    decRound S r h (encRound S r h w) = w := by
  simp only [decRound, encRound, sub32_add32, rotr32_rotl32, xor32_xor32]

theorem decRounds_encRounds (S : Schedule) (n : Nat) (h : n ≤ 12) (w : BlockWords) :
    decRounds S n h (encRounds S n h w) = w := by
  induction n with
  | zero => rfl
  | succ n ih => rw [encRounds, decRounds, decRound_encRound, ih]

theorem decryptWords_encryptWords (S : Schedule) (w : BlockWords) : decryptWords S (encryptWords S w) = w := by
  rw [decryptWords, encryptWords, decRounds_encRounds, unwhiten_whiten]

theorem decrypt_encrypt (S : Schedule) (block : Block) : decrypt S (encrypt S block) = block := by
  simp only [decrypt, encrypt, decryptInto, encryptInto, loadBlock_storeBlock, decryptWords_encryptWords,
    storeBlock_loadBlock]

theorem encryptInto_eq_encrypt (S : Schedule) (src dst : Block) : encryptInto S src dst = encrypt S src :=
  storeBlock_dst_irrelevant dst resultBuffer _

theorem decryptInto_eq_decrypt (S : Schedule) (src dst : Block) : decryptInto S src dst = decrypt S src :=
  storeBlock_dst_irrelevant dst resultBuffer _

end Sys2Proof.Machine

namespace Sys2Proof.Proofs

open Sys2Proof.Machine

/-- Settles O18. The sequences are the words of `encWordsAfter`; one step of it is the two lines of `encRound`. -/
theorem encryptFollowsTheAlgorithm : Obligations.EncryptFollowsTheAlgorithm := by
  unfold Obligations.EncryptFollowsTheAlgorithm
  intro S src
  let W := encWordsAfter S (loadBlock src)
  have hfirst : W 0 = whiten S (loadBlock src) := encWordsAfter_zero S _
  have hlast : W 12 = encryptWords S (loadBlock src) := encWordsAfter_twelve S _
  refine ⟨fun r => (W r).a, fun r => (W r).b, congrArg BlockWords.a hfirst, congrArg BlockWords.b hfirst,
    fun r hr => ?round, ?stored⟩
  case round =>
    have hW : W (r + 1) = encRound S (r + 1) hr (W r) := encWordsAfter_succ S _ hr
    simp only [hW]
    exact ⟨encRound_a S (r + 1) hr (W r), encRound_b S (r + 1) hr (W r)⟩
  case stored =>
    simp only [hlast]
    exact storeBlock_toList resultBuffer (encryptWords S (loadBlock src))

/-- Settles O19. The sequences are the words of `decWordsBefore`, run from round 12; one step of it is the two lines
of `decRound`. -/
theorem decryptFollowsTheAlgorithm : Obligations.DecryptFollowsTheAlgorithm := by
  unfold Obligations.DecryptFollowsTheAlgorithm
  intro S src
  let W := decWordsBefore S 12 le_rfl (loadBlock src)
  have hfirst : W 12 = loadBlock src := decWordsBefore_self S 12 le_rfl _
  have hlast : W 0 = decRounds S 12 le_rfl (loadBlock src) := decWordsBefore_zero S 12 le_rfl _
  refine ⟨fun r => (W r).a, fun r => (W r).b, congrArg BlockWords.a hfirst, congrArg BlockWords.b hfirst,
    fun r hr => ?round, ?stored⟩
  case round =>
    have hW : W r = decRound S (r + 1) hr (W (r + 1)) := decWordsBefore_of_lt S 12 le_rfl _ hr
    simp only [hW]
    exact ⟨decRound_b S (r + 1) hr (W (r + 1)), decRound_a S (r + 1) hr (W (r + 1))⟩
  case stored =>
    simp only [hlast]
    exact storeBlock_toList resultBuffer (decryptWords S (loadBlock src))

/-- Settles O20. The expansion of a key is one of the schedules of `decrypt_encrypt`. -/
theorem decryptInvertsEncrypt : Obligations.DecryptInvertsEncrypt := by
  unfold Obligations.DecryptInvertsEncrypt
  exact ⟨decrypt_encrypt, fun key => decrypt_encrypt (expandKey key)⟩

/-- Settles O22. The source as the destination is one of the buffers whose old bytes do not count. -/
theorem inPlaceUseGivesTheSameBlock : Obligations.InPlaceUseGivesTheSameBlock := by
  unfold Obligations.InPlaceUseGivesTheSameBlock
  exact fun S src dst => ⟨encryptInto_eq_encrypt S src dst, decryptInto_eq_decrypt S src dst,
    encryptInto_eq_encrypt S src src, decryptInto_eq_decrypt S src src⟩

end Sys2Proof.Proofs

/-!
PROOFS. The decoder and the encoder (30_encoding section 2). One equation per selector says which format is read, one
per format what is accepted and by what name the rest is turned away.
-/

namespace Sys2Proof

theorem decode_of_selector_kexp {f : Frame} (hop : f.op = 0b00#2) : decode f = (decodeKey f).map Instr.kexp := by
  simp [decode, hop]

theorem decode_of_selector_enc {f : Frame} (hop : f.op = 0b01#2) : decode f = (decodeBlock f).map Instr.enc := by
  simp [decode, hop]

theorem decode_of_selector_dec {f : Frame} (hop : f.op = 0b10#2) : decode f = (decodeBlock f).map Instr.dec := by
  simp [decode, hop]

theorem decode_of_selector_rsvd {f : Frame} (hop : f.op = 0b11#2) : decode f = .ok .rsvd := by
  simp [decode, hop]

theorem decodeKey_of_admitted {f : Frame} (hlen : f.operand.length = f.klen)
    (hadm : Config.klenAdmitted f.klen = true) : decodeKey f = .ok f.operand := by
  simp [decodeKey, hlen, hadm]

theorem decodeKey_of_length_ne {f : Frame} (hlen : f.operand.length ≠ f.klen) :
    decodeKey f = .error (.keyBytes f.klen f.operand.length) := by
  simp [decodeKey, hlen]

theorem decodeKey_of_klenMax_lt {f : Frame} (hlen : f.operand.length = f.klen) (hmax : Config.klenMax < f.klen) :
    decodeKey f = .error (.klenAboveMax f.klen) := by
  have hadm : ¬ Config.klenAdmitted f.klen = true := fun h => hmax.not_ge ((Laws.klenAdmitted_iff _).1 h)
  simp [decodeKey, hlen, hadm]

theorem blockLengthOk_iff (bytes : List Byte) : blockLengthOk bytes = true ↔ bytes.length = 8 := by
  simp [blockLengthOk]

theorem decodeBlock_of_lengthOk {f : Frame} (h : blockLengthOk f.operand = true) : decodeBlock f = .ok f.operand := by
  simp [decodeBlock, h]

theorem decodeBlock_of_length_ne {f : Frame} (h : f.operand.length ≠ 8) :
    decodeBlock f = .error (.blockBytes f.operand.length) := by
  simp [decodeBlock, blockLengthOk_iff, h]

/-- Each format accepts what the encoder writes for a command of that format, under the check that makes the command
well formed. -/
theorem decode_encode {i : Instr} (h : i.WellFormed) : decode (encode i) = .ok i := by
  cases i with
  | kexp key =>
    have hkey : decodeKey (encode (.kexp key)) = .ok key := decodeKey_of_admitted rfl h
    rw [decode_of_selector_kexp rfl, hkey, Except.map]
  | enc src =>
    have hsrc : decodeBlock (encode (.enc src)) = .ok src := decodeBlock_of_lengthOk h
    rw [decode_of_selector_enc rfl, hsrc, Except.map]
  | dec src =>
    have hsrc : decodeBlock (encode (.dec src)) = .ok src := decodeBlock_of_lengthOk h
    rw [decode_of_selector_dec rfl, hsrc, Except.map]
  | rsvd => exact decode_of_selector_rsvd rfl

theorem decode_encode_kexp_of_klenMax_lt {key : List Byte} (h : Config.klenMax < key.length) :
    decode (encode (.kexp key)) = .error (.klenAboveMax key.length) := by
  have hkey : decodeKey (encode (.kexp key)) = .error (.klenAboveMax key.length) := decodeKey_of_klenMax_lt rfl h
  rw [decode_of_selector_kexp rfl, hkey, Except.map]

/-- Whatever decodes passed the length check of its format. -/
theorem selector_and_wellFormed_of_decode {f : Frame} {i : Instr} (h : decode f = .ok i) :
    f.op = i.selector ∧ i.WellFormed := by
  cases i with
  | kexp key => exact Laws.DecodedAs.kexp key f h
  | enc src => exact Laws.DecodedAs.enc src f h
  | dec src => exact Laws.DecodedAs.dec src f h
  | rsvd => exact Laws.DecodedAs.rsvd f h

/-- In format K every field of the frame is read: nothing of it is lost (30_encoding R62). -/
theorem encode_of_decode_kexp {f : Frame} {key : List Byte} (h : decode f = .ok (.kexp key)) :
    encode (.kexp key) = f := by
  obtain ⟨op, klen, operand⟩ := f
  rcases Laws.DecodedAs.decode_cases h with ⟨hop, hi, hlen, -⟩ | ⟨-, hi, -⟩ | ⟨-, hi, -⟩ | ⟨-, hi⟩
  · cases hi
    obtain rfl : op = 0b00#2 := hop
    obtain rfl : operand.length = klen := hlen
    rfl
  all_goals cases hi

end Sys2Proof

namespace Sys2Proof.Proofs

open Sys2Proof.Machine

/-- Settles O35, format by format. -/
theorem decodeEncode : Obligations.DecodeEncode := by
  unfold Obligations.DecodeEncode
  exact fun i => decode_encode

/-- Settles O36. Selector and length checks are the decoder's; the operand bytes follow from what `decode_cases`
says was read. -/
theorem decodeTakesEveryOperandByte : Obligations.DecodeTakesEveryOperandByte := by
  unfold Obligations.DecodeTakesEveryOperandByte
  intro f i h
  obtain ⟨hsel, hwf⟩ := selector_and_wellFormed_of_decode h
  refine ⟨hwf, hsel.symm, fun hop => ?formatK, fun hop => ?formatB⟩
  case formatK =>
    rcases Laws.DecodedAs.decode_cases h with ⟨-, rfl, -⟩ | ⟨hop', -⟩ | ⟨hop', -⟩ | ⟨hop', -⟩
    · exact encode_of_decode_kexp h
    all_goals simp [hop] at hop'
  case formatB =>
    rcases Laws.DecodedAs.decode_cases h with ⟨-, rfl, -⟩ | ⟨-, rfl, -⟩ | ⟨-, rfl, -⟩ | ⟨hop', -⟩
    · rfl
    · rfl
    · rfl
    · simp [hop'] at hop

/-- Settles O37. `KLEN_MAX` is an excess over 32, so the check lets every length up to 32 through. -/
theorem keyLengthsUpTo32CanBePresented : Obligations.KeyLengthsUpTo32CanBePresented := by
  unfold Obligations.KeyLengthsUpTo32CanBePresented
  have hmax : 32 ≤ Config.klenMax := Nat.le_add_left _ _
  exact ⟨hmax, fun key hlen => decode_encode ((Laws.klenAdmitted_iff _).2 (hlen.trans hmax)),
    fun _ => decode_encode_kexp_of_klenMax_lt⟩

/-- Settles O38. Each printed frame is the encoding of a well-formed command. -/
theorem printedEncodingsDecode : Obligations.PrintedEncodingsDecode := by
  unfold Obligations.PrintedEncodingsDecode
  exact ⟨decode_encode (i := .enc _) (by decide), decode_encode (i := .dec _) (by decide),
    decode_encode (i := .kexp _) (by decide), decode_encode (i := .rsvd) (by decide)⟩

end Sys2Proof.Proofs

/-!
PROOFS. What each command does (41_key_expansion section 2; 42_block_transform; 30_encoding section 4): one equation
per command and kind of operand, and `execBehaviour`, which says for every command which of four things it does. The
statements about all commands are read off those four, or off `exec_cases` where a next state is given.
-/

namespace Sys2Proof.Machine

open Safety

theorem exec_kexp_toList (key : Key) (s : State) :
    exec (.kexp key.toList) s = .next ((s.install (expandKey key)).respond .kexpOk) := by
  rcases execKexp_cases key.toList s with ⟨k, hk, h⟩ | ⟨hlen, -⟩
  · cases Vector.toList_inj.1 hk
    exact h
  · exact absurd key.length_toList hlen

theorem exec_kexp_of_length_ne {key : List Byte} (hlen : key.length ≠ 16) (s : State) :
    exec (.kexp key) s = .next (s.invalidate.respond (.invalidKeySize key.length)) := by
  rcases execKexp_cases key s with ⟨k, rfl, -⟩ | ⟨-, h⟩
  · exact absurd k.length_toList hlen
  · exact h

/-- What a transform command answers for a block of 8 bytes: a function of the block and of `(S, KV)`. -/
def blockReply (transform : Schedule → Block → Block) (b : Block) (sched : Schedule) (kv : Bool) : Response :=
  if kv then .blockOk (transform sched b) else .noSchedule

@[simp] theorem blockReply_true (transform : Schedule → Block → Block) (b : Block) (sched : Schedule) :
    blockReply transform b sched true = .blockOk (transform sched b) := rfl

@[simp] theorem blockReply_false (transform : Schedule → Block → Block) (b : Block) (sched : Schedule) :
    blockReply transform b sched false = .noSchedule := rfl

@[simp] theorem blockReply_format (transform : Schedule → Block → Block) (b : Block) (sched : Schedule) (kv : Bool) :
    (blockReply transform b sched kv).format = .rb := by
  cases kv <;> rfl

/-- With 8 bytes a transform only adds its response. -/
theorem execBlock_toList (transform : Schedule → Block → Block) (b : Block) (s : State) :
    execBlock transform b.toList s = .next (s.respond (blockReply transform b s.sched s.kv)) := by
  rcases execBlock_cases transform b.toList s with ⟨hlen, -⟩ | ⟨c, hc, hkv, h⟩ | ⟨c, hc, hkv, h⟩
  · exact absurd b.length_toList hlen
  · rw [h, hkv, blockReply_false]
  · cases Vector.toList_inj.1 hc
    rw [h, hkv, blockReply_true]

theorem execBlock_of_length_ne (transform : Schedule → Block → Block) {src : List Byte} (hlen : src.length ≠ 8)
    (s : State) : execBlock transform src s = .fault .badBlockSize := by
  rcases execBlock_cases transform src s with ⟨-, h⟩ | ⟨b, rfl, -⟩ | ⟨b, rfl, -⟩
  · exact h
  all_goals exact absurd b.length_toList hlen

theorem exec_enc_toList (b : Block) (s : State) :
    exec (.enc b.toList) s = .next (s.respond (blockReply encrypt b s.sched s.kv)) :=
  execBlock_toList encrypt b s

theorem exec_dec_toList (b : Block) (s : State) :
    exec (.dec b.toList) s = .next (s.respond (blockReply decrypt b s.sched s.kv)) :=
  execBlock_toList decrypt b s

theorem exec_enc_of_length_ne {src : List Byte} (hlen : src.length ≠ 8) (s : State) :
    exec (.enc src) s = .fault .badBlockSize :=
  execBlock_of_length_ne encrypt hlen s

theorem exec_dec_of_length_ne {src : List Byte} (hlen : src.length ≠ 8) (s : State) :
    exec (.dec src) s = .fault .badBlockSize :=
  execBlock_of_length_ne decrypt hlen s

theorem exec_rsvd (s : State) : exec .rsvd s = .next (s.respond .illegalCommand) := rfl

/-- A byte sequence of 8 bytes is a block's. -/
theorem exists_block_toList {src : List Byte} (hlen : src.length = 8) : ∃ b : Block, b.toList = src :=
  ⟨⟨⟨src⟩, hlen⟩, rfl⟩

/-- A byte sequence of 16 bytes is a key's. -/
theorem exists_key_toList {key : List Byte} (hlen : key.length = 16) : ∃ k : Key, k.toList = key :=
  ⟨⟨⟨key⟩, hlen⟩, rfl⟩

/-- What the command `i` does, in every state. Which of the four it is depends on `i` alone. -/
inductive ExecBehaviour (i : Instr) : Prop where
  /-- A `KEXP` of 16 bytes. -/
  | installs (key : Key) (command : i = .kexp key.toList)
      (result : ∀ s, exec i s = .next ((s.install (expandKey key)).respond .kexpOk))
  /-- A `KEXP` of another length. -/
  | invalidates (key : List Byte) (command : i = .kexp key) (length : key.length ≠ 16)
      (result : ∀ s, exec i s = .next (s.invalidate.respond (.invalidKeySize key.length)))
  /-- A transform of 8 bytes, or the reserved command: only a response is added, a function of `(S, KV)`. -/
  | answers (reply : Schedule → Bool → Response) (notKexp : ∀ key, i ≠ .kexp key)
      (format : ∀ sched kv, (reply sched kv).format = responseFormatOf i)
      (noFault : i ≠ .rsvd → ∀ sched, (reply sched true).fault? = none)
      (result : ∀ s, exec i s = .next (s.respond (reply s.sched s.kv)))
  /-- A transform of another length: no command of the interface. -/
  | stops (illFormed : ¬ i.WellFormed) (result : ∀ s, exec i s = .fault .badBlockSize)

theorem execBehaviour (i : Instr) : ExecBehaviour i := by
  cases i with
  | kexp key =>
    by_cases hlen : key.length = 16
    · obtain ⟨k, rfl⟩ := exists_key_toList hlen
      exact .installs k rfl (exec_kexp_toList k)
    · exact .invalidates key rfl hlen (exec_kexp_of_length_ne hlen)
  | enc src =>
    by_cases hlen : src.length = 8
    · obtain ⟨b, rfl⟩ := exists_block_toList hlen
      exact .answers (blockReply encrypt b) nofun (blockReply_format encrypt b) (fun _ _ => rfl) (exec_enc_toList b)
    · exact .stops (mt (blockLengthOk_iff src).1 hlen) (exec_enc_of_length_ne hlen)
  | dec src =>
    by_cases hlen : src.length = 8
    · obtain ⟨b, rfl⟩ := exists_block_toList hlen
      exact .answers (blockReply decrypt b) nofun (blockReply_format decrypt b) (fun _ _ => rfl) (exec_dec_toList b)
    · exact .stops (mt (blockLengthOk_iff src).1 hlen) (exec_dec_of_length_ne hlen)
  | rsvd => exact .answers (fun _ _ => .illegalCommand) nofun (fun _ _ => rfl) (absurd rfl) exec_rsvd

/-- Only a block of a wrong length stops a command. -/
theorem exec_next_of_wellFormed {i : Instr} (h : i.WellFormed) (s : State) : ∃ t, exec i s = .next t := by
  cases execBehaviour i with
  | installs _ _ result => exact ⟨_, result s⟩
  | invalidates _ _ _ result => exact ⟨_, result s⟩
  | answers _ _ _ _ result => exact ⟨_, result s⟩
  | stops illFormed => exact absurd h illFormed

/-- Everything a command can do when it answers a next state. -/
theorem exec_cases {i : Instr} {s t : State} (h : exec i s = .next t) :
    (∃ key : Key, i = .kexp key.toList ∧ t = (s.install (expandKey key)).respond .kexpOk) ∨
    (∃ key : List Byte, i = .kexp key ∧ key.length ≠ 16 ∧
      t = s.invalidate.respond (.invalidKeySize key.length)) ∨
    (∃ r, (∀ key, i ≠ .kexp key) ∧ r.format = responseFormatOf i ∧ t = s.respond r) := by
  cases execBehaviour i with
  | installs key command result =>
    cases (result s).symm.trans h
    exact .inl ⟨key, command, rfl⟩
  | invalidates key command length result =>
    cases (result s).symm.trans h
    exact .inr (.inl ⟨key, command, length, rfl⟩)
  | answers reply notKexp format noFault result =>
    cases (result s).symm.trans h
    exact .inr (.inr ⟨_, notKexp, format s.sched s.kv, rfl⟩)
  | stops _ result => cases (result s).symm.trans h

/-- The frame of every command, and its one response. -/
theorem exec_pending_and_responses {i : Instr} {s t : State} (h : exec i s = .next t) :
    t.pending = s.pending ∧ ∃ r, t.responses = s.responses ++ [r] ∧ r.format = responseFormatOf i := by
  rcases exec_cases h with ⟨key, rfl, rfl⟩ | ⟨key, rfl, -, rfl⟩ | ⟨r, -, hformat, rfl⟩
  · exact ⟨rfl, _, rfl, rfl⟩
  · exact ⟨rfl, _, rfl, rfl⟩
  · exact ⟨rfl, r, rfl, hformat⟩

theorem exec_keeps_sched_kv_draws {i : Instr} {s t : State} (hi : ∀ key, i ≠ .kexp key) (h : exec i s = .next t) :
    t.sched = s.sched ∧ t.kv = s.kv ∧ t.draws = s.draws := by
  rcases exec_cases h with ⟨key, rfl, -⟩ | ⟨key, rfl, -⟩ | ⟨r, -, -, rfl⟩
  · exact absurd rfl (hi _)
  · exact absurd rfl (hi _)
  · exact ⟨rfl, rfl, rfl⟩

/-- Free values are handed out only where no schedule is left. -/
theorem exec_draws_of_kv {i : Instr} {s t : State} (h : exec i s = .next t) (hkv : t.kv = true) :
    t.draws = s.draws := by
  rcases exec_cases h with ⟨key, -, rfl⟩ | ⟨key, -, -, rfl⟩ | ⟨r, -, -, rfl⟩
  · rfl
  · cases hkv
  · rfl

/-- `KEXP` overwrites `(S, KV)` and reads none of it, the others read nothing but it. -/
theorem exec_congr_sched_kv {i : Instr} {s₁ s₂ t₁ : State} (hsched : s₁.sched = s₂.sched) (hkv : s₁.kv = s₂.kv)
    (h : exec i s₁ = .next t₁) :
    ∃ t₂ r, exec i s₂ = .next t₂ ∧ t₁.responses = s₁.responses ++ [r] ∧ t₂.responses = s₂.responses ++ [r] ∧
      t₁.kv = t₂.kv ∧ (t₁.kv = true → t₁.sched = t₂.sched) := by
  cases execBehaviour i with
  | installs key command result =>
    cases (result s₁).symm.trans h
    exact ⟨_, _, result s₂, rfl, rfl, rfl, fun _ => rfl⟩
  | invalidates key command length result =>
    cases (result s₁).symm.trans h
    exact ⟨_, _, result s₂, rfl, rfl, rfl, nofun⟩
  | answers reply notKexp format noFault result =>
    cases (result s₁).symm.trans h
    have hreply : reply s₂.sched s₂.kv = reply s₁.sched s₁.kv := by rw [hsched, hkv]
    exact ⟨_, _, result s₂, rfl, by rw [hreply]; rfl, hkv, fun _ => hsched⟩
  | stops _ result => cases (result s₁).symm.trans h

theorem faultsOnRecord_respond (r : Response) (s : State) :
    faultsOnRecord (s.respond r) = faultsOnRecord s ++ r.fault?.toList := by
  cases h : r.fault? <;> simp [faultsOnRecord, h]

theorem exec_keeps_faultsOnRecord {i : Instr} {s : State} (hkv : s.kv = true) (hwf : i.WellFormed) (hi : i ≠ .rsvd) :
    ∃ t, exec i s = .next t ∧ faultsOnRecord t = faultsOnRecord s := by
  cases execBehaviour i with
  | installs key command result =>
    exact ⟨_, result s, (faultsOnRecord_respond _ _).trans (List.append_nil _)⟩
  | invalidates key command length result =>
    exact ⟨_, result s, (faultsOnRecord_respond _ _).trans (List.append_nil _)⟩
  | answers reply notKexp format noFault result =>
    have hnone : (reply s.sched s.kv).fault? = none := by rw [hkv]; exact noFault hi s.sched
    exact ⟨_, result s, by rw [faultsOnRecord_respond, hnone, Option.toList_none, List.append_nil]⟩
  | stops illFormed => exact absurd hwf illFormed

/-- A transform of a block, in every state: only a response is added, a function of `(S, KV)`. -/
theorem exists_reply_of_transform {i : Instr} {b : Block} (h : i = .enc b.toList ∨ i = .dec b.toList) :
    ∃ reply : Schedule → Bool → Response, ∀ s, exec i s = .next (s.respond (reply s.sched s.kv)) := by
  rcases h with rfl | rfl
  · exact ⟨_, exec_enc_toList b⟩
  · exact ⟨_, exec_dec_toList b⟩

theorem transformInto_of_length_ne (into : Schedule → Block → Block → Block) (sched : Schedule) {src dst : List Byte}
    (h : src.length ≠ 8 ∨ dst.length ≠ 8) : transformInto into sched src dst = .error .badBlockSize := by
  rcases h with h | h
  · simp [transformInto, toBlock?_eq_none.2 h]
  · simp [transformInto, toBlock?_eq_none.2 h]

theorem transformInto_toList (into : Schedule → Block → Block → Block) (sched : Schedule) (src dst : Block) :
    transformInto into sched src.toList dst.toList = .ok (into sched src dst) := by
  simp [transformInto, toBlock?_eq_some.2 rfl]

end Sys2Proof.Machine

namespace Sys2Proof.Proofs

open Sys2Proof.Machine Sys2Proof.Safety

/-- Settles O15. -/
theorem kexpInstallsTheExpandedKey : Obligations.KexpInstallsTheExpandedKey := by
  unfold Obligations.KexpInstallsTheExpandedKey
  exact fun key s => ⟨_, exec_kexp_toList key s, rfl, rfl, rfl, rfl, rfl⟩

/-- Settles O16. -/
theorem failedKexpInvalidatesTheSchedule : Obligations.FailedKexpInvalidatesTheSchedule := by
  unfold Obligations.FailedKexpInvalidatesTheSchedule
  exact fun key s hlen => ⟨_, exec_kexp_of_length_ne hlen s, rfl, rfl, rfl, rfl, rfl⟩

/-- Settles O17. A failed `KEXP` reads the length of its key and nothing else, and is no obstacle to the next one. -/
theorem invalidKeySizeIsRecoverable : Obligations.InvalidKeySizeIsRecoverable := by
  unfold Obligations.InvalidKeySizeIsRecoverable
  intro bad other s hbad hother
  refine ⟨?lengthOnly, _, _, exec_kexp_of_length_ne hbad s, exec_kexp_of_length_ne hbad _, rfl, rfl,
    fun good => ⟨_, exec_kexp_toList good _, rfl, rfl⟩⟩
  rw [exec_kexp_of_length_ne (hother.trans_ne hbad), exec_kexp_of_length_ne hbad, hother]

/-- Settles O23. -/
theorem transformsOfByteSequencesCheckLengths : Obligations.TransformsOfByteSequencesCheckLengths := by
  unfold Obligations.TransformsOfByteSequencesCheckLengths
  refine ⟨fun S src dst h => ⟨transformInto_of_length_ne _ S h, transformInto_of_length_ne _ S h⟩,
    fun S src dst => ⟨?encrypted, ?decrypted⟩⟩
  case encrypted => rw [transformInto_toList, encryptInto_eq_encrypt]
  case decrypted => rw [transformInto_toList, decryptInto_eq_decrypt]

/-- Settles O24. -/
theorem encAnswersTheCiphertext : Obligations.EncAnswersTheCiphertext := by
  unfold Obligations.EncAnswersTheCiphertext
  intro src s hkv
  exact ⟨_, exec_enc_toList src s, by rw [hkv]; rfl, rfl, hkv, rfl, rfl⟩

/-- Settles O25. -/
theorem decAnswersThePlaintext : Obligations.DecAnswersThePlaintext := by
  unfold Obligations.DecAnswersThePlaintext
  intro src s hkv
  exact ⟨_, exec_dec_toList src s, by rw [hkv]; rfl, rfl, hkv, rfl, rfl⟩

/-- Settles O26. -/
theorem transformWithoutScheduleIsAnsweredNoSchedule :
    Obligations.TransformWithoutScheduleIsAnsweredNoSchedule := by
  unfold Obligations.TransformWithoutScheduleIsAnsweredNoSchedule
  intro src s hkv
  exact ⟨⟨_, exec_enc_toList src s, by rw [hkv]; rfl, rfl, hkv, rfl, rfl⟩,
    ⟨_, exec_dec_toList src s, by rw [hkv]; rfl, rfl, hkv, rfl, rfl⟩, rfl⟩

/-- Settles O27. -/
theorem wrongBlockLengthStopsBeforeTheState : Obligations.WrongBlockLengthStopsBeforeTheState := by
  unfold Obligations.WrongBlockLengthStopsBeforeTheState
  exact fun src s hlen => ⟨exec_enc_of_length_ne hlen s, exec_dec_of_length_ne hlen s⟩

/-- Settles O28. `ENC` leaves the installed schedule, so `DEC` undoes it with the same 26 words. -/
theorem commandsRoundTrip : Obligations.CommandsRoundTrip := by
  unfold Obligations.CommandsRoundTrip
  intro s key p
  let c := encrypt (expandKey key) p
  let t := (s.install (expandKey key)).respond .kexpOk
  let u := t.respond (.blockOk c)
  have hdec : exec (.dec c.toList) u = .next (u.respond (.blockOk (decrypt (expandKey key) c))) := exec_dec_toList c u
  rw [decrypt_encrypt] at hdec
  exact ⟨t, u, _, c, exec_kexp_toList key s, exec_enc_toList p t, rfl, hdec, rfl⟩

/-- Settles O29. Neither transform changes the `(S, KV)` that the other's response is a function of. -/
theorem transformsCommute : Obligations.TransformsCommute := by
  unfold Obligations.TransformsCommute
  intro s b c x y hx hy
  obtain ⟨replyX, execX⟩ := exists_reply_of_transform hx
  obtain ⟨replyY, execY⟩ := exists_reply_of_transform hy
  exact ⟨_, _, execX s, execY _, execY s, execX _⟩

/-- Settles O30. -/
theorem reservedCommandIsAnsweredIllegalCommand : Obligations.ReservedCommandIsAnsweredIllegalCommand := by
  unfold Obligations.ReservedCommandIsAnsweredIllegalCommand
  exact ⟨fun s => ⟨_, exec_rsvd s, rfl, rfl, rfl, rfl, rfl⟩, fun _ => decode_of_selector_rsvd⟩

/-- Settles O31, response by response. -/
theorem responseFieldsFollowTheStatus : Obligations.ResponseFieldsFollowTheStatus := by
  unfold Obligations.ResponseFieldsFollowTheStatus
  refine ⟨rfl, fun _ => rfl, fun _ => rfl, rfl, rfl, fun r => ?_⟩
  cases r <;> simp [Response.elen?, Response.dst?, Response.fault?, Response.status, Response.format]

/-- Settles O32. -/
theorem commandFrames : Obligations.CommandFrames := by
  unfold Obligations.CommandFrames
  intro i s t h
  obtain ⟨hpending, hresponses⟩ := exec_pending_and_responses h
  exact ⟨hpending, hresponses, fun hi => exec_keeps_sched_kv_draws hi h, exec_draws_of_kv h⟩

/-- Settles O33. -/
theorem responseDependsOnScheduleAndValidBitOnly : Obligations.ResponseDependsOnScheduleAndValidBitOnly := by
  unfold Obligations.ResponseDependsOnScheduleAndValidBitOnly
  exact fun _ _ _ _ => exec_congr_sched_kv

/-- Settles O34. -/
theorem noFaultWithAValidSchedule : Obligations.NoFaultWithAValidSchedule := by
  unfold Obligations.NoFaultWithAValidSchedule
  exact fun _ _ => exec_keeps_faultsOnRecord

end Sys2Proof.Proofs

/-!
PROOFS. One step of the machine and whole runs (00_scope section 7; 10_state section 2; 70 section 3): what each kind of
oldest event leads to, the schedule invariant, and the run over events that can be presented.
-/

namespace Sys2Proof.Machine

open Safety

theorem step_of_pending_nil {s : State} (hp : s.pending = []) : step s = .next s := by
  simp [step, hp, idle]

theorem step_of_reset {s : State} {rest : List HostEvent} (hp : s.pending = .reset :: rest) :
    step s = .next (s.takeEvent rest).invalidate := by
  simp [step, hp, applyReset]

theorem step_of_decode_ok {s : State} {f : Frame} {rest : List HostEvent} {i : Instr}
    (hp : s.pending = .command f :: rest) (hd : decode f = .ok i) : step s = exec i (s.takeEvent rest) := by
  simp [step, hp, hd]

theorem step_of_decode_error {s : State} {f : Frame} {rest : List HostEvent} {e : DecodeError}
    (hp : s.pending = .command f :: rest) (hd : decode f = .error e) : step s = rejectFrame e := by
  simp [step, hp, hd]

/-- What decodes is well formed, so its step answers a next state, with the one response of its format. -/
theorem step_command {s : State} {f : Frame} {rest : List HostEvent} {i : Instr}
    (hp : s.pending = .command f :: rest) (hd : decode f = .ok i) :
    ∃ t r, step s = .next t ∧ t.pending = rest ∧ t.responses = s.responses ++ [r] ∧
      r.format = responseFormatOf i := by
  obtain ⟨t, ht⟩ := exec_next_of_wellFormed (selector_and_wellFormed_of_decode hd).2 (s.takeEvent rest)
  obtain ⟨hpending, r, hresponses, hformat⟩ := exec_pending_and_responses ht
  exact ⟨t, r, (step_of_decode_ok hp hd).trans ht, hpending, hresponses, hformat⟩

theorem scheduleValid_of_kv_false {s : State} (hkv : s.kv = false) : ScheduleValid s := by
  simp [ScheduleValid, hkv]

/-- `KEXP` installs an expansion or clears `KV`; every other command leaves `(S, KV)`. -/
theorem exec_keeps_scheduleValid {i : Instr} {s t : State} (hs : ScheduleValid s) (h : exec i s = .next t) :
    ScheduleValid t := by
  rcases exec_cases h with ⟨key, -, rfl⟩ | ⟨key, -, -, rfl⟩ | ⟨r, -, -, rfl⟩
  · exact fun _ => ⟨key, rfl⟩
  · exact scheduleValid_of_kv_false rfl
  · exact hs

theorem step_keeps_scheduleValid {s t : State} (hs : ScheduleValid s) (h : step s = .next t) : ScheduleValid t := by
  rcases step_cases h with ⟨-, rfl⟩ | ⟨rest, -, rfl⟩ | ⟨f, rest, i, -, -, hexec⟩
  · exact hs
  · exact scheduleValid_of_kv_false rfl
  · exact exec_keeps_scheduleValid (s := s.takeEvent rest) hs hexec

/-- Only a `KEXP` of a 16-byte key sets `KV`. -/
theorem exec_sets_kv {i : Instr} {s t : State} (h : exec i s = .next t) (hs : s.kv = false) (ht : t.kv = true) :
    ∃ key : Key, i = .kexp key.toList ∧ t.sched = expandKey key := by
  rcases exec_cases h with ⟨key, hi, rfl⟩ | ⟨key, -, -, rfl⟩ | ⟨r, -, -, rfl⟩
  · exact ⟨key, hi, rfl⟩
  · cases ht
  · cases hs.symm.trans ht

/-- Only a `KEXP` of a key of another length clears `KV`. -/
theorem exec_clears_kv {i : Instr} {s t : State} (h : exec i s = .next t) (hs : s.kv = true) (ht : t.kv = false) :
    ∃ key : List Byte, i = .kexp key ∧ key.length ≠ 16 := by
  rcases exec_cases h with ⟨key, -, rfl⟩ | ⟨key, hi, hlen, -⟩ | ⟨r, -, -, rfl⟩
  · cases ht
  · exact ⟨key, hi, hlen⟩
  · cases hs.symm.trans ht

/-- A step over an event that can be presented takes it, and adds one response when it is a command and none when it
is the reset event. -/
theorem step_of_presentable {s : State} {e : HostEvent} {rest : List HostEvent} (hp : s.pending = e :: rest)
    (he : Presentable e) :
    ∃ t added, step s = .next t ∧ t.pending = rest ∧ t.responses = s.responses ++ added ∧
      added.length = ([e].filter isCommand).length := by
  cases e with
  | reset => exact ⟨_, [], step_of_reset hp, rfl, (List.append_nil _).symm, rfl⟩
  | command f =>
    obtain ⟨i, hd⟩ := he
    obtain ⟨t, r, hstep, hpending, hresponses, -⟩ := step_command hp hd
    exact ⟨t, [r], hstep, hpending, hresponses, rfl⟩

/-- The first step of a run. -/
theorem run_succ_of_step {s t : State} (h : step s = .next t) (n : Nat) : core.run (n + 1) s = core.run n t := by
  have hcore : core.step s = .next t := h
  simp only [Host.Core.run, hcore]

theorem run_of_presentable {events : List HostEvent} {s : State} (hp : s.pending = events)
    (he : ∀ e ∈ events, Presentable e) :
    ∃ t added, core.run events.length s = .next t ∧ t.pending = [] ∧ t.responses = s.responses ++ added ∧
      added.length = (events.filter isCommand).length := by
  induction events generalizing s with
  | nil => exact ⟨s, [], rfl, hp, (List.append_nil _).symm, rfl⟩
  | cons e rest ih =>
    obtain ⟨hfirst, hrest⟩ := List.forall_mem_cons.1 he
    obtain ⟨t, added, hstep, hpending, hresponses, hcount⟩ := step_of_presentable hp hfirst
    obtain ⟨u, later, hrun, hnone, hlater, hlaterCount⟩ := ih hpending hrest
    refine ⟨u, added ++ later, (run_succ_of_step hstep _).trans hrun, hnone, ?responses, ?count⟩
    case responses => rw [hlater, hresponses, List.append_assoc]
    case count =>
      rw [List.length_append, hcount, hlaterCount, ← List.length_append, ← List.filter_append, List.singleton_append]

end Sys2Proof.Machine

namespace Sys2Proof.Proofs

open Sys2Proof.Machine Sys2Proof.Safety

/-- Settles O39. -/
theorem resetLeavesNoSchedule : Obligations.ResetLeavesNoSchedule := by
  unfold Obligations.ResetLeavesNoSchedule
  exact ⟨rfl, rfl, rfl, fun src => ⟨⟨_, exec_enc_toList src _, rfl⟩, ⟨_, exec_dec_toList src _, rfl⟩⟩⟩

/-- Settles O40. -/
theorem resetScheduleValid : Obligations.ResetScheduleValid := by
  unfold Obligations.ResetScheduleValid
  exact scheduleValid_of_kv_false rfl

/-- Settles O41. The only schedules installed together with `KV = 1` are expansions. -/
theorem stepKeepsScheduleValid : Obligations.StepKeepsScheduleValid := by
  unfold Obligations.StepKeepsScheduleValid
  exact fun _ _ => step_keeps_scheduleValid

/-- Settles O42. A frame that decodes to a `KEXP` has selector 00, so the command that ran is another one. -/
theorem onlyKexpAndResetChangeTheSchedule : Obligations.OnlyKexpAndResetChangeTheSchedule := by
  unfold Obligations.OnlyKexpAndResetChangeTheSchedule
  intro s t h hreset hkexp
  rcases step_cases h with ⟨-, rfl⟩ | ⟨rest, hp, -⟩ | ⟨f, rest, i, hp, hd, hexec⟩
  · exact ⟨rfl, rfl⟩
  · exact absurd hp (hreset rest)
  · have hi : ∀ key, i ≠ .kexp key := by
      rintro key rfl
      exact hkexp f rest hp (selector_and_wellFormed_of_decode hd).1
    obtain ⟨hsched, hkv, -⟩ := exec_keeps_sched_kv_draws hi hexec
    exact ⟨hsched, hkv⟩

/-- Settles O43. A frame of format K is the encoding of the `KEXP` it decodes to, so its `klen` is the key's length. -/
theorem validBitChangesOnlyByKexpOrReset : Obligations.ValidBitChangesOnlyByKexpOrReset := by
  unfold Obligations.ValidBitChangesOnlyByKexpOrReset
  intro s t h
  rcases step_cases h with ⟨-, rfl⟩ | ⟨rest, hp, rfl⟩ | ⟨f, rest, i, hp, hd, hexec⟩
  · exact ⟨fun hs ht => absurd (hs.symm.trans ht) nofun, fun hs ht => absurd (hs.symm.trans ht) nofun⟩
  · exact ⟨fun _ => nofun, fun _ _ => .inl ⟨rest, hp⟩⟩
  · refine ⟨fun hs ht => ?set, fun hs ht => .inr ?cleared⟩
    case set =>
      obtain ⟨key, rfl, hsched⟩ := exec_sets_kv hexec hs ht
      exact ⟨key, rest, by rw [hp, encode_of_decode_kexp hd], hsched⟩
    case cleared =>
      obtain ⟨key, rfl, hlen⟩ := exec_clears_kv hexec hs ht
      cases encode_of_decode_kexp hd
      exact ⟨_, rest, hp, rfl, hlen⟩

/-- Settles O44. -/
theorem stepRunsTheDecodedCommand : Obligations.StepRunsTheDecodedCommand := by
  unfold Obligations.StepRunsTheDecodedCommand
  exact fun _ _ _ _ => step_of_decode_ok

/-- Settles O45. -/
theorem everyCommandGetsOneResponse : Obligations.EveryCommandGetsOneResponse := by
  unfold Obligations.EveryCommandGetsOneResponse
  exact fun _ _ _ _ => step_command

/-- Settles O46. -/
theorem resetEventLeavesNoSchedule : Obligations.ResetEventLeavesNoSchedule := by
  unfold Obligations.ResetEventLeavesNoSchedule
  exact fun s rest hp => ⟨_, step_of_reset hp, rfl, rfl, rfl, rfl, rfl⟩

/-- Settles O47. -/
theorem idleStepChangesNothing : Obligations.IdleStepChangesNothing := by
  unfold Obligations.IdleStepChangesNothing
  exact fun _ => step_of_pending_nil

/-- Settles O48. The step passes on the decoder's reason. -/
theorem framesOutsideTheInterfaceAreTurnedAway : Obligations.FramesOutsideTheInterfaceAreTurnedAway := by
  unfold Obligations.FramesOutsideTheInterfaceAreTurnedAway
  intro s f rest hp
  refine ⟨fun hop hlen => ?keyBytes, fun hop hlen hmax => ?klenAboveMax, fun hop hlen => ?blockBytes⟩
  case keyBytes =>
    have hd : decode f = .error (.keyBytes f.klen f.operand.length) := by
      rw [decode_of_selector_kexp hop, decodeKey_of_length_ne hlen, Except.map]
    exact step_of_decode_error hp hd
  case klenAboveMax =>
    have hd : decode f = .error (.klenAboveMax f.klen) := by
      rw [decode_of_selector_kexp hop, decodeKey_of_klenMax_lt hlen hmax, Except.map]
    exact step_of_decode_error hp hd
  case blockBytes =>
    have hd : decode f = .error (.blockBytes f.operand.length) := by
      rcases hop with hop | hop
      · rw [decode_of_selector_enc hop, decodeBlock_of_length_ne hlen, Except.map]
      · rw [decode_of_selector_dec hop, decodeBlock_of_length_ne hlen, Except.map]
    exact step_of_decode_error hp hd

/-- Settles O49, by induction on the events. -/
theorem everyRunEnds : Obligations.EveryRunEnds := by
  unfold Obligations.EveryRunEnds
  exact fun _ => run_of_presentable rfl

end Sys2Proof.Proofs

/-!
PROOFS. The word operations by themselves (00_scope section 5). A left rotation's `toNat` is two bit fields side by
side (`rotl32_toNat`), so each of its bits is a bit of one field; the right rotation's bits follow, since the left one
undoes it.
-/

namespace Sys2Proof.Machine

theorem add32_toNat (a b : Word) : (add32 a b).toNat = (a.toNat + b.toNat) % 2 ^ 32 := BitVec.toNat_add a b

theorem sub32_toNat (a b : Word) : (sub32 a b).toNat = (2 ^ 32 + a.toNat - b.toNat) % 2 ^ 32 := by
  rw [sub32, BitVec.toNat_sub, ← Nat.sub_add_comm b.isLt.le]

/-- The difference is the only word that makes the sum. -/
theorem add32_eq_iff (a b d : Word) : add32 d b = a ↔ d = sub32 a b := BitVec.eq_sub_iff_add_eq.symm

theorem add32_sub32 (a b : Word) : add32 (sub32 a b) b = a := (add32_eq_iff a b _).2 rfl

theorem rotl32_of_mod_eq_zero {n : Nat} (h : n % 32 = 0) (x : Word) : rotl32 x n = x := by
  simp [rotl32, h]

theorem rotr32_of_mod_eq_zero {n : Nat} (h : n % 32 = 0) (x : Word) : rotr32 x n = x := by
  simp [rotr32, h]

theorem rotl32_mod (x : Word) (n : Nat) : rotl32 x (n % 32) = rotl32 x n := by
  simp only [rotl32, Nat.mod_mod]

theorem rotr32_mod (x : Word) (n : Nat) : rotr32 x (n % 32) = rotr32 x n := by
  simp only [rotr32, Nat.mod_mod]

/-- Rotating left finds again the two parts that rotating right swapped. -/
theorem rotl32_rotr32 (x : Word) (n : Nat) : rotl32 (rotr32 x n) n = x := by
  apply BitVec.eq_of_toNat_eq
  have hhigh : x.toNat / 2 ^ (n % 32) < 2 ^ (32 - n % 32) :=
    toNat_div_lt x (by rw [Nat.mul_comm, two_pow_mod_mul_two_pow_sub_mod])
  rw [rotl32_toNat, rotr32_toNat, Nat.mul_add_mod, Nat.mod_eq_of_lt hhigh, Nat.mul_add_div (Nat.two_pow_pos _),
    Nat.div_eq_of_lt hhigh, Nat.add_zero, Nat.div_add_mod]

/-- The bits of a rotated word: below the amount the word's high bits, from the amount on its low bits. -/
theorem rotl32_getLsbD (x : Word) (n j : Nat) : (rotl32 x n).getLsbD j =
    if j < n % 32 then x.getLsbD (j + (32 - n % 32))
    else decide (j - n % 32 < 32 - n % 32) && x.getLsbD (j - n % 32) := by
  have hhigh := toNat_div_lt x (two_pow_mod_mul_two_pow_sub_mod n)
  simp only [← BitVec.testBit_toNat]
  rw [rotl32_toNat, Nat.testBit_two_pow_mul_add _ hhigh, Nat.testBit_div_two_pow, Nat.testBit_mod_two_pow]

theorem rotl32_getLsbD_add_mod (x : Word) (n : Nat) {k : Nat} (hk : k < 32) :
    (rotl32 x n).getLsbD ((k + n) % 32) = x.getLsbD k := by
  rw [rotl32_getLsbD]
  by_cases hwrap : k + n % 32 < 32
  · have hj : (k + n) % 32 = k + n % 32 := by omega
    have hlow : k < 32 - n % 32 := by omega
    simp [hj, hlow]
  · have hj : (k + n) % 32 = k + n % 32 - 32 := by omega
    have hbelow : k + n % 32 - 32 < n % 32 := by omega
    have hback : k + n % 32 - 32 + (32 - n % 32) = k := by omega
    rw [hj, if_pos hbelow, hback]

/-- Bit `k` of the right rotation, seen after the left rotation that gives `x` back. -/
theorem rotr32_getLsbD (x : Word) (n : Nat) {k : Nat} (hk : k < 32) :
    (rotr32 x n).getLsbD k = x.getLsbD ((k + n) % 32) := by
  rw [← rotl32_getLsbD_add_mod (rotr32 x n) n hk, rotl32_rotr32]

theorem rotAmount_eq_extractLsb' (v : Word) : rotAmount v = (v.extractLsb' 0 5).toNat := by
  rw [BitVec.extractLsb'_toNat, Nat.shiftRight_zero]
  rfl

/-- 32 divides 2^32, so the wrap of the sum does not reach the amount. -/
theorem rotAmount_add32 (a b : Word) : rotAmount (add32 a b) = (a.toNat + b.toNat) % 32 := by
  rw [rotAmount, add32_toNat, Nat.mod_mod_of_dvd _ (by decide)]

end Sys2Proof.Machine

namespace Sys2Proof.Proofs

open Sys2Proof.Machine

/-- Settles O1. -/
theorem wordSumsAndDifferencesWrap : Obligations.WordSumsAndDifferencesWrap := by
  unfold Obligations.WordSumsAndDifferencesWrap
  exact ⟨add32_toNat, BitVec.add_assoc, BitVec.add_comm, sub32_toNat, add32_eq_iff, by decide⟩

/-- Settles O2. -/
theorem xorIsBitwise : Obligations.XorIsBitwise := by
  unfold Obligations.XorIsBitwise
  intro a b k
  rw [xor32, BitVec.getLsbD_xor, bne_iff_ne]

/-- Settles O3. -/
theorem rotationsMoveBits : Obligations.RotationsMoveBits := by
  unfold Obligations.RotationsMoveBits
  exact fun x n _ hk => ⟨rotl32_getLsbD_add_mod x n hk, rotr32_getLsbD x n hk⟩

/-- Settles O4. -/
theorem rotationsInvertAndReduce : Obligations.RotationsInvertAndReduce := by
  unfold Obligations.RotationsInvertAndReduce
  exact fun x n => ⟨rotr32_rotl32 x n, rotl32_rotr32 x n, rotl32_mod x n, rotr32_mod x n,
    fun h => ⟨rotl32_of_mod_eq_zero h x, rotr32_of_mod_eq_zero h x⟩⟩

/-- Settles O5. -/
theorem rotationAmountIsLowFiveBits : Obligations.RotationAmountIsLowFiveBits := by
  unfold Obligations.RotationAmountIsLowFiveBits
  exact ⟨fun v => ⟨rotAmount_eq_extractLsb' v, Nat.mod_lt _ (by decide)⟩, rotAmount_add32⟩

end Sys2Proof.Proofs

/-!
PROOFS. Byte buffers and parallel buses (20_memory sections 2 and 4).
-/

namespace Sys2Proof.Machine

/-- The four bytes read are the four written, so this is the inverse law `le32_byteOf`. -/
theorem memRead_memWrite {n : Nat} (buf : Vector Byte n) (k : Nat) (h : k + 3 < n) (v : Word) :
    memRead (memWrite buf k h v) k h = v := by
  simp [memRead, memWrite, bytesLe32, le32_byteOf]

/-- The four nested updates are at other offsets. -/
theorem memWrite_getElem_of_outside {n : Nat} (buf : Vector Byte n) (k : Nat) (h : k + 3 < n) (v : Word) {d : Nat}
    (hd : d < n) (hout : d < k ∨ k + 3 < d) : (memWrite buf k h v)[d] = buf[d] := by
  have h0 : k ≠ d := by omega
  have h1 : k + 1 ≠ d := by omega
  have h2 : k + 2 ≠ d := by omega
  have h3 : k + 3 ≠ d := by omega
  simp [memWrite, Vector.getElem_set_ne, h0, h1, h2, h3]

/-- Byte `k` of the bus value: dropping the first byte is dividing by 2^8. -/
theorem busValue_div_mod (bytes : List Byte) (k : Nat) (h : k < bytes.length) :
    busValue bytes / 2 ^ (8 * k) % 2 ^ 8 = bytes[k].toNat := by
  induction bytes generalizing k with
  | nil => cases h
  | cons b rest ih =>
    cases k with
    | zero => simp only [busValue, List.getElem_cons_zero]; omega
    | succ k =>
      have hdrop : busValue (b :: rest) / 2 ^ 8 = busValue rest := by simp only [busValue]; omega
      have hpow : 2 ^ (8 * (k + 1)) = 2 ^ 8 * 2 ^ (8 * k) := by rw [← Nat.pow_add, Nat.mul_add_one, Nat.add_comm]
      rw [hpow, ← Nat.div_div_eq_div_mul, hdrop, List.getElem_cons_succ]
      exact ih k (Nat.lt_of_succ_lt_succ h)

/-- Four bytes of a bus are the word they make, and the rest stands 32 bits higher. -/
theorem busValue_four (b0 b1 b2 b3 : Byte) (rest : List Byte) :
    busValue (b0 :: b1 :: b2 :: b3 :: rest) = (le32 b0 b1 b2 b3).toNat + 2 ^ 32 * busValue rest := by
  simp only [busValue, le32_toNat]
  omega

/-- The bytes of a vector, listed. -/
theorem toList_eq_ofFn {n : Nat} (bytes : Vector Byte n) : bytes.toList = List.ofFn fun k : Fin n => bytes[k.val] := by
  rw [← Vector.toList_ofFn, Vector.ofFn_getElem]

theorem busValue_block (src : Block) :
    busValue src.toList = (loadBlock src).a.toNat + 2 ^ 32 * (loadBlock src).b.toNat := by
  have hbytes : src.toList = [src[0], src[1], src[2], src[3], src[4], src[5], src[6], src[7]] := toList_eq_ofFn src
  rw [hbytes, busValue_four, busValue_four]
  rfl

theorem busValue_key (key : Key) : busValue key.toList = (packKey key)[0].toNat + 2 ^ 32 * (packKey key)[1].toNat +
    2 ^ 64 * (packKey key)[2].toNat + 2 ^ 96 * (packKey key)[3].toNat := by
  have hbytes : key.toList = [key[0], key[1], key[2], key[3], key[4], key[5], key[6], key[7],
      key[8], key[9], key[10], key[11], key[12], key[13], key[14], key[15]] := toList_eq_ofFn key
  have h0 : (packKey key)[0] = le32 key[0] key[1] key[2] key[3] := packKey_getElem key 0
  have h1 : (packKey key)[1] = le32 key[4] key[5] key[6] key[7] := packKey_getElem key 1
  have h2 : (packKey key)[2] = le32 key[8] key[9] key[10] key[11] := packKey_getElem key 2
  have h3 : (packKey key)[3] = le32 key[12] key[13] key[14] key[15] := packKey_getElem key 3
  rw [hbytes, h0, h1, h2, h3, busValue_four, busValue_four, busValue_four, busValue_four, busValue]
  ring

end Sys2Proof.Machine

namespace Sys2Proof.Proofs

open Sys2Proof.Machine

/-- Settles O7. -/
theorem bufferWriteReadsBackAndFrames : Obligations.BufferWriteReadsBackAndFrames := by
  unfold Obligations.BufferWriteReadsBackAndFrames
  exact fun _ buf k h v => ⟨memRead_memWrite buf k h v, fun _ hd => memWrite_getElem_of_outside buf k h v hd⟩

/-- Settles O9. -/
theorem busLanesFollowByteOrder : Obligations.BusLanesFollowByteOrder := by
  unfold Obligations.BusLanesFollowByteOrder
  exact ⟨busValue_div_mod, busValue_block, busValue_key⟩

end Sys2Proof.Proofs

/-!
PROOFS. The magic table (40_magic_table), and which iteration of the key expansion rewrites which word
(41_key_expansion section 1).
-/

namespace Sys2Proof.Machine

theorem MT_getElem {i : Nat} (h : i < 26) : MT[i] = magicWord i := by
  simp [MT]

/-- `MT[i] = (P + i*Q) mod 2^32`, by the recurrence. -/
theorem magicWord_toNat (i : Nat) : (magicWord i).toNat = (0xb7e15163 + i * 0x9e3779b9) % 2 ^ 32 := by
  induction i with
  | zero => rfl
  | succ i ih =>
    have hQ : Config.magicQ.toNat = 0x9e3779b9 := rfl
    rw [magicWord, add32_toNat, ih, hQ]
    omega

theorem expandLocals_succ (key : Key) (t : Nat) : expandLocals key (t + 1) = mixIteration (expandLocals key t) := rfl

/-- Iteration `t` rewrites word `t mod 26` of `S`, and no other. -/
theorem expandLocals_s_of_ne (key : Key) {t : Nat} {k : Fin 26} (h : t % 26 ≠ k.val) :
    (expandLocals key (t + 1)).s[k] = (expandLocals key t).s[k] := by
  rw [expandLocals_succ]
  refine mixIteration_s_of_ne _ fun hk => h ?_
  rw [hk, expandLocals_i_val]

/-- Iteration `t` leaves the new `A` in word `t mod 26` of `S`. -/
theorem expandLocals_s_at (key : Key) {t : Nat} {k : Fin 26} (h : t % 26 = k.val) :
    (expandLocals key (t + 1)).s[k] = (expandLocals key (t + 1)).a := by
  obtain rfl : k = (expandLocals key t).i := Fin.ext (by rw [expandLocals_i_val, h])
  exact (mixIteration_a _).symm

/-- Iteration `t` rewrites word `t mod 4` of `L`, and no other. -/
theorem expandLocals_l_of_ne (key : Key) {t : Nat} {k : Fin 4} (h : t % 4 ≠ k.val) :
    (expandLocals key (t + 1)).l[k] = (expandLocals key t).l[k] := by
  rw [expandLocals_succ]
  refine mixIteration_l_of_ne _ fun hk => h ?_
  rw [hk, expandLocals_j_val]

end Sys2Proof.Machine

namespace Sys2Proof.Proofs

open Sys2Proof.Machine

/-- Settles O10. -/
theorem magicTableRecurrence : Obligations.MagicTableRecurrence := by
  unfold Obligations.MagicTableRecurrence
  refine ⟨MT_getElem _, fun i h => ?recurrence, fun i h => ?closedForm, MT_getElem _⟩
  case recurrence => rw [MT_getElem, MT_getElem]; rfl
  case closedForm => rw [MT_getElem, magicWord_toNat]

/-- Settles O11, by evaluating the recurrence 26 times. -/
theorem magicTableValues : Obligations.MagicTableValues := by
  unfold Obligations.MagicTableValues
  decide +kernel

/-- Settles O13. Among the 78 iterations those with `t mod 26 = k` are `k`, `k + 26` and `k + 52`. -/
theorem eachScheduleWordIsRewrittenThreeTimes : Obligations.EachScheduleWordIsRewrittenThreeTimes := by
  unfold Obligations.EachScheduleWordIsRewrittenThreeTimes
  intro key
  refine ⟨fun t _ => ⟨expandLocals_i_val key t, expandLocals_j_val key t⟩,
    fun k t ht h0 h1 h2 => expandLocals_s_of_ne key ?otherWord, fun k t h => expandLocals_s_at key ?rewritten,
    fun k t _ h => expandLocals_l_of_ne key h, ?lastA⟩
  case otherWord => omega
  case rewritten => omega
  case lastA =>
    have hlast : (expandLocals key 78).s[25] = (expandLocals key 78).a := expandLocals_s_at key (t := 77) (k := 25) rfl
    rw [expandKey_eq]
    exact hlast.symm

end Sys2Proof.Proofs

/-!
PROOFS. `encrypt` undoes `decrypt` (42_block_transform section 2), line by line as in the other direction.
-/

namespace Sys2Proof.Machine

theorem whiten_unwhiten (S : Schedule) (w : BlockWords) : whiten S (unwhiten S w) = w := by
  simp only [whiten, unwhiten, add32_sub32]

/-- `encRound` first undoes the second line of `decRound`, with the new `B`, then the first, with the `A` just
restored. -/
theorem encRound_decRound (S : Schedule) (r : Nat) (h : r ≤ 12) (w : BlockWords) :
    encRound S r h (decRound S r h w) = w := by
  simp only [encRound, decRound, xor32_xor32, rotl32_rotr32, add32_sub32]

theorem encRounds_decRounds (S : Schedule) (n : Nat) (h : n ≤ 12) (w : BlockWords) :
    encRounds S n h (decRounds S n h w) = w := by
  induction n generalizing w with
  | zero => rfl
  | succ n ih => rw [decRounds, encRounds, ih, encRound_decRound]

theorem encryptWords_decryptWords (S : Schedule) (w : BlockWords) : encryptWords S (decryptWords S w) = w := by
  rw [encryptWords, decryptWords, whiten_unwhiten, encRounds_decRounds]

theorem encrypt_decrypt (S : Schedule) (c : Block) : encrypt S (decrypt S c) = c := by
  simp only [encrypt, decrypt, encryptInto, decryptInto, loadBlock_storeBlock, encryptWords_decryptWords,
    storeBlock_loadBlock]

end Sys2Proof.Machine

namespace Sys2Proof.Proofs

open Sys2Proof.Machine

/-- Settles O21. `decrypt` is an inverse on both sides. -/
theorem encryptIsABijection : Obligations.EncryptIsABijection := by
  unfold Obligations.EncryptIsABijection
  exact fun S => ⟨Function.bijective_iff_has_inverse.2 ⟨decrypt S, decrypt_encrypt S, encrypt_decrypt S⟩,
    encrypt_decrypt S⟩

end Sys2Proof.Proofs
